-- ==== Sys2Proof/Word.lean ====
section
/-! DEFINITION. The two word types of the block (00_scope.md R10): `u8` for everything that passes the
transport port and for buffer bytes, `u32` for the host registers. -/

namespace Sys2Proof

/-- `u8`: an ASIC register value or address, a slot, a buffer byte (20_memory.md R62). -/
abbrev Byte := BitVec 8

/-- `u32`: a host register or a command word (20_memory.md R68, 30_encoding.md R100). -/
abbrev Word := BitVec 32

end Sys2Proof
end

