-- ==== Sys2Proof/Syntax.lean ====
section
/-! DEFINITION. The command set: one constructor per row of spec/opcode_table.json (30_encoding.md R110). -/

namespace Sys2Proof

/-- A command as its 32-bit word gives it (30_encoding.md R102): the operation, its SLOT, and IMM8 where the
operation uses it. `rate` is all of IMM8 (IMM8-use index). `imm8` is IMM8 of a command whose IMM8-use is flag,
of which only bit 0 may be set (R103); see `Instr.WellFormed`. -/
inductive Instr where
  /-- RESET_INIT, OPC 0x01 (R260) -/
  | resetInit (slot : Byte)
  /-- APPLY_DEFAULTS, OPC 0x02 (R221) -/
  | applyDefaults (slot : Byte)
  /-- SET_SPEED, OPC 0x03 (R223); rate_index = IMM8 -/
  | setSpeed (slot rate : Byte)
  /-- SET_RF_MODE, OPC 0x04 (R226) -/
  | setRfMode (slot : Byte)
  /-- SET_RF_POWER, OPC 0x05 (R261); on = IMM8[0] -/
  | setRfPower (slot imm8 : Byte)
  /-- TRANSCEIVE, OPC 0x06 (R170); toggle = IMM8[0] -/
  | transceive (slot imm8 : Byte)
  /-- GET_ERROR, OPC 0x07 (R228) -/
  | getError (slot : Byte)
  /-- GET_COLL_POS, OPC 0x08 (R229) -/
  | getCollPos (slot : Byte)
  /-- GET_SPEEDS, OPC 0x09 (R280) -/
  | getSpeeds (slot : Byte)
  /-- GET_CARRIER, OPC 0x0A (R281) -/
  | getCarrier (slot : Byte)
  /-- GET_MAX_FRAME, OPC 0x0B (R282) -/
  | getMaxFrame (slot : Byte)
  /-- CLEAR_BITS, OPC 0x10 (R135) -/
  | clearBits (slot : Byte)
  /-- SET_BITS, OPC 0x11 (R136) -/
  | setBits (slot : Byte)
  /-- SET_MASKED, OPC 0x12 (R137) -/
  | setMasked (slot : Byte)
  /-- APPLY_TABLE, OPC 0x13 (R138) -/
  | applyTable (slot : Byte)
  /-- DERIVE_TIMER, OPC 0x14 (R154) -/
  | deriveTimer (slot : Byte)
  /-- ARM_TIMER, OPC 0x15 (R155) -/
  | armTimer (slot : Byte)
deriving DecidableEq, Repr

end Sys2Proof
end

