-- ==== Sys2Proof/WellFormed.lean ====
section
/-! DEFINITION. Which commands a command word can encode (30_encoding.md R103, R112). -/

namespace Sys2Proof

/-- The check of R103 on an IMM8 whose use is `flag`: IMM8[7:1] must be 0. -/
def flagImmOk (imm8 : Byte) : Bool :=
  imm8.extractLsb' 1 7 == 0

/-- A command that R103 accepts: SET_RF_POWER and TRANSCEIVE have a flag operand, so their IMM8[7:1] is 0.
Every SLOT is accepted, and every IMM8 of SET_SPEED (R109: a rate above 3 is rejected by the command, not by
decode). -/
def Instr.WellFormed : Instr → Bool
  | .setRfPower _ imm8 => flagImmOk imm8
  | .transceive _ imm8 => flagImmOk imm8
  | .resetInit _ | .applyDefaults _ | .setSpeed _ _ | .setRfMode _ | .getError _ | .getCollPos _
  | .getSpeeds _ | .getCarrier _ | .getMaxFrame _ | .clearBits _ | .setBits _ | .setMasked _
  | .applyTable _ | .deriveTimer _ | .armTimer _ => true

end Sys2Proof
end

