-- ==== Sys2Proof/Decode.lean ====
section
/-! DEFINITION. The decoder of the command word (30_encoding.md R102, R103, R110) and the encoder beside it. -/

namespace Sys2Proof

/-- Why a command word is illegal, in the order of the checks of R103, each of which ends the command with error
ILLEGAL; and why some bytes are no command word. -/
inductive DecodeError where
  /-- RSV [31:24] is not 0 -/
  | reservedBits
  /-- OPC is not in the opcode map of R110 -/
  | unknownOpcode
  /-- IMM8 is not 0 and the command's IMM8-use is none -/
  | immediateNotZero
  /-- IMM8[7:1] is not 0 and the command's IMM8-use is flag -/
  | flagNotBoolean
  /-- the bytes are not the four of a command word (R100: there is no other length) -/
  | wrongLength
deriving DecidableEq, Repr

/-! ## Byte order of the host bus (20_memory.md R69): little-endian -/

/-- The `n` bytes of a word from its least significant one on. -/
def leBytes (w : Word) (n : Nat) : List Byte :=
  (List.range n).map fun i => w.extractLsb' (8 * i) 8

/-- The word whose bytes, from the least significant one on, are given; missing high bytes are 0. -/
def leWord : List Byte → Word
  | [] => 0
  | b :: bs => b.setWidth 32 ||| (leWord bs <<< 8)

/-! ## Fields of the command word (R102) -/

def opcOf (w : Word) : Byte := w.extractLsb' 0 8
def slotOf (w : Word) : Byte := w.extractLsb' 8 8
def immOf (w : Word) : Byte := w.extractLsb' 16 8
def rsvOf (w : Word) : Byte := w.extractLsb' 24 8

/-- IMM8-use `none` (R103). -/
def noImm (imm : Byte) (i : Instr) : Except DecodeError Instr :=
  if imm = 0 then .ok i else .error .immediateNotZero

/-- IMM8-use `flag` (R103). -/
def flagImm (imm : Byte) (i : Instr) : Except DecodeError Instr :=
  if flagImmOk imm then .ok i else .error .flagNotBoolean

/-- The opcode map (R110) with the IMM8 check of each row. -/
def decodeOpc (opc slot imm : Byte) : Except DecodeError Instr :=
  match opc.toNat with
  | 0x01 => noImm imm (.resetInit slot)
  | 0x02 => noImm imm (.applyDefaults slot)
  | 0x03 => .ok (.setSpeed slot imm)
  | 0x04 => noImm imm (.setRfMode slot)
  | 0x05 => flagImm imm (.setRfPower slot imm)
  | 0x06 => flagImm imm (.transceive slot imm)
  | 0x07 => noImm imm (.getError slot)
  | 0x08 => noImm imm (.getCollPos slot)
  | 0x09 => noImm imm (.getSpeeds slot)
  | 0x0A => noImm imm (.getCarrier slot)
  | 0x0B => noImm imm (.getMaxFrame slot)
  | 0x10 => noImm imm (.clearBits slot)
  | 0x11 => noImm imm (.setBits slot)
  | 0x12 => noImm imm (.setMasked slot)
  | 0x13 => noImm imm (.applyTable slot)
  | 0x14 => noImm imm (.deriveTimer slot)
  | 0x15 => noImm imm (.armTimer slot)
  | _ => .error .unknownOpcode

/-- Decode(w) of R103: RSV first, then the opcode, then IMM8. -/
def decode (w : Word) : Except DecodeError Instr :=
  if rsvOf w = 0 then decodeOpc (opcOf w) (slotOf w) (immOf w) else .error .reservedBits

/-- The decoder on the bytes of a command word as the host bus lays them out (R69). -/
def decodeBytes (bs : List Byte) : Except DecodeError Instr :=
  if bs.length = 4 then decode (leWord bs) else .error .wrongLength

/-- The instruction the decoder reads from an instruction whose bits are `w`. A command word is 32 bits and
there is no other length (R100), so bits beyond them belong to no instruction. -/
def decodeTableWord (nbits w : Nat) : Option Instr :=
  if nbits ≤ 32 then (decodeBytes (leBytes (BitVec.ofNat 32 (w % 2 ^ nbits)) 4)).toOption else none

/-! ## Encoder -/

/-- The operation code of R110. -/
def Instr.opc : Instr → Byte
  | .resetInit _ => 0x01
  | .applyDefaults _ => 0x02
  | .setSpeed _ _ => 0x03
  | .setRfMode _ => 0x04
  | .setRfPower _ _ => 0x05
  | .transceive _ _ => 0x06
  | .getError _ => 0x07
  | .getCollPos _ => 0x08
  | .getSpeeds _ => 0x09
  | .getCarrier _ => 0x0A
  | .getMaxFrame _ => 0x0B
  | .clearBits _ => 0x10
  | .setBits _ => 0x11
  | .setMasked _ => 0x12
  | .applyTable _ => 0x13
  | .deriveTimer _ => 0x14
  | .armTimer _ => 0x15

/-- SLOT of the command. -/
def Instr.slot : Instr → Byte
  | .resetInit x | .applyDefaults x | .setSpeed x _ | .setRfMode x | .setRfPower x _ | .transceive x _
  | .getError x | .getCollPos x | .getSpeeds x | .getCarrier x | .getMaxFrame x | .clearBits x | .setBits x
  | .setMasked x | .applyTable x | .deriveTimer x | .armTimer x => x

/-- IMM8 of the command: 0 where the command defines no use of it (R102). -/
def Instr.imm8 : Instr → Byte
  | .setSpeed _ x | .setRfPower _ x | .transceive _ x => x
  | .resetInit _ | .applyDefaults _ | .setRfMode _ | .getError _ | .getCollPos _ | .getSpeeds _
  | .getCarrier _ | .getMaxFrame _ | .clearBits _ | .setBits _ | .setMasked _ | .applyTable _
  | .deriveTimer _ | .armTimer _ => 0

/-- The four fields of format OP put together (R102), RSV highest. -/
def packWord (rsv imm slot opc : Byte) : Word :=
  rsv ++ imm ++ slot ++ opc

/-- The command word of a command. -/
def encode (i : Instr) : Word :=
  packWord 0 i.imm8 i.slot i.opc

end Sys2Proof
end

