-- ==== Sys2Proof/Config.lean ====
section
/-! DEFINITION. What an implementation of the block fixes (00_scope.md R9, 10_state.md R40) and the free
values, the things the spec leaves open: opaque constants with no body, so that nothing can be proved of
the value of one. -/

namespace Sys2Proof

/-- ASIC_REGMAP (20_memory.md R71): the ASIC's register addresses, command codes and bit masks, which the
block takes as a parameter. -/
structure RegMap where
  /-- PAGE: address -/
  page : Byte
  /-- COMMAND: address -/
  command : Byte
  /-- PRIMARY_STATUS: address -/
  primaryStatus : Byte
  /-- FIFO_LENGTH: address -/
  fifoLength : Byte
  /-- INTERRUPT_EN: address -/
  interruptEn : Byte
  /-- INTERRUPT_RQ: address -/
  interruptRq : Byte
  /-- CONTROL: address -/
  control : Byte
  /-- ERROR_FLAG: address -/
  errorFlag : Byte
  /-- COLL_POS: address -/
  collPos : Byte
  /-- BIT_FRAMING: address -/
  bitFraming : Byte
  /-- TX_CONTROL: address -/
  txControl : Byte
  /-- CODER_CONTROL: address -/
  coderControl : Byte
  /-- MOD_WIDTH: address -/
  modWidth : Byte
  /-- RX_CONTROL1: address -/
  rxControl1 : Byte
  /-- DECODER_CONTROL: address -/
  decoderControl : Byte
  /-- RX_THRESHOLD: address -/
  rxThreshold : Byte
  /-- BPSK_DEM_CONTROL: address -/
  bpskDemControl : Byte
  /-- CHANNEL_REDUNDANCY: address -/
  channelRedundancy : Byte
  /-- TIMER_CLOCK: address -/
  timerClock : Byte
  /-- TIMER_CONTROL: address -/
  timerControl : Byte
  /-- TIMER_RELOAD: address -/
  timerReload : Byte
  /-- CMD_IDLE: command code -/
  cmdIdle : Byte
  /-- CMD_TRANSCEIVE: command code -/
  cmdTransceive : Byte
  /-- IRQ_SET: mask (INTERRUPT_RQ/EN bit 7) -/
  irqSet : Byte
  /-- IRQ_TIMER: mask -/
  irqTimer : Byte
  /-- IRQ_RX: mask -/
  irqRx : Byte
  /-- IRQ_ALL7: mask -/
  irqAll7 : Byte
  /-- STAT_ERR: mask (PRIMARY_STATUS) -/
  statErr : Byte
  /-- STAT_IRQ: mask (PRIMARY_STATUS) -/
  statIrq : Byte
  /-- ERR_COLL: mask (ERROR_FLAG) -/
  errColl : Byte
  /-- ERR_PARITY: mask (ERROR_FLAG) -/
  errParity : Byte
  /-- ERR_FRAMING: mask (ERROR_FLAG) -/
  errFraming : Byte
  /-- ERR_CRC: mask (ERROR_FLAG) -/
  errCrc : Byte
  /-- FLUSH_FIFO: mask (CONTROL) -/
  flushFifo : Byte
  /-- CRYPTO1_ON: mask (CONTROL) -/
  crypto1On : Byte
  /-- POWERDOWN: mask (CONTROL) -/
  powerdown : Byte
  /-- RF_EN: mask (TX_CONTROL) -/
  rfEn : Byte
  /-- TXCTRL_BRINGUP: value (TX_CONTROL) -/
  txctrlBringup : Byte
  /-- TMR_MODE: value (TIMER_CONTROL) -/
  tmrMode : Byte
  /-- RXALIGN_SHIFT: shift (BIT_FRAMING) -/
  rxalignShift : Nat
  /-- CR_PARITY_EN: mask (CHANNEL_REDUNDANCY) -/
  crParityEn : Byte
  /-- CR_PARITY_ODD: mask (CHANNEL_REDUNDANCY) -/
  crParityOdd : Byte
  /-- CR_TX_CRC: mask (CHANNEL_REDUNDANCY) -/
  crTxCrc : Byte
  /-- CR_RX_CRC: mask (CHANNEL_REDUNDANCY) -/
  crRxCrc : Byte
  /-- SUBCP_MASK: mask (RX_CONTROL1) -/
  subcpMask : Byte
  /-- CODING_MASK: mask (DECODER_CONTROL) -/
  codingMask : Byte
  /-- CODING_BPSK: value of the coding field -/
  codingBpsk : Byte
  /-- CODERRATE_MASK: mask (CODER_CONTROL) -/
  coderrateMask : Byte
deriving DecidableEq, Repr, Inhabited

/-- The register addresses of ASIC_REGMAP. -/
def RegMap.addresses (r : RegMap) : List Byte :=
  [r.page, r.command, r.primaryStatus, r.fifoLength, r.interruptEn, r.interruptRq,
    r.control, r.errorFlag, r.collPos, r.bitFraming, r.txControl, r.coderControl,
    r.modWidth, r.rxControl1, r.decoderControl, r.rxThreshold, r.bpskDemControl, r.channelRedundancy,
    r.timerClock, r.timerControl, r.timerReload]

/-- The default column of the table of R71. PRESUMED (log 8): the spec marks every number of it as general
knowledge of the CLRC632 family, not the source's. -/
def RegMap.default : RegMap where
  page := 0x00
  command := 0x01
  primaryStatus := 0x03
  fifoLength := 0x04
  interruptEn := 0x06
  interruptRq := 0x07
  control := 0x09
  errorFlag := 0x0A
  collPos := 0x0B
  bitFraming := 0x0F
  txControl := 0x11
  coderControl := 0x14
  modWidth := 0x15
  rxControl1 := 0x19
  decoderControl := 0x1A
  rxThreshold := 0x1C
  bpskDemControl := 0x1D
  channelRedundancy := 0x22
  timerClock := 0x2A
  timerControl := 0x2B
  timerReload := 0x2C
  cmdIdle := 0x00
  cmdTransceive := 0x1E
  irqSet := 0x80
  irqTimer := 0x20
  irqRx := 0x08
  irqAll7 := 0x7F
  statErr := 0x04
  statIrq := 0x08
  errColl := 0x01
  errParity := 0x02
  errFraming := 0x04
  errCrc := 0x08
  flushFifo := 0x01
  crypto1On := 0x08
  powerdown := 0x10
  rfEn := 0x03
  txctrlBringup := 0x5B
  tmrMode := 0x06
  rxalignShift := 4
  crParityEn := 0x01
  crParityOdd := 0x02
  crTxCrc := 0x04
  crRxCrc := 0x08
  subcpMask := 0x07
  codingMask := 0x01
  codingBpsk := 0x01
  coderrateMask := 0x38

/-- A Register Table Entry: an (address, value) pair (00_scope.md R14). -/
abbrev Entry := Byte × Byte

/-- One bit-rate profile: six u8 fields (43_link_config.md R222). -/
structure Profile where
  subcp : Byte
  coding : Byte
  threshold : Byte
  bpskdem : Byte
  coderrate : Byte
  modwidth : Byte
deriving DecidableEq, Repr, Inhabited

/-- PROFILE_TABLE (43_link_config.md R222): index 0 is 106k, 1 is 212k, 2 is 424k, 3 is 848k. -/
structure ProfileTable where
  r106k : Profile
  r212k : Profile
  r424k : Profile
  r848k : Profile
deriving DecidableEq, Repr, Inhabited

/-- The parameters of the block (R9), fixed for its life (R40): ASIC_REGMAP, DEFAULTS_TABLE, PROFILE_TABLE,
TX_MAX, and POLL_LIMIT with `none` for INF. -/
structure Params where
  regs : RegMap
  defaults : List Entry
  profiles : ProfileTable
  txMax : Nat
  pollLimit : Option Nat
deriving DecidableEq, Repr

/-- What the spec asks of the parameters: no two register names share an address (R71), DEFAULTS_TABLE has
0 to 128 entries (R220), 0 < TX_MAX <= 256, and a finite POLL_LIMIT is at least 1 (R9). -/
def Params.wf (p : Params) : Bool :=
  decide p.regs.addresses.Nodup && decide (p.defaults.length ≤ 128) && decide (0 < p.txMax) &&
    decide (p.txMax ≤ 256) && decide (p.pollLimit ≠ some 0)

/-! ## Constants of 00_scope.md R9 that the source states -/

/-- FIFO_SIZE, the ASIC FIFO's capacity in bytes; also MAX_FRAME, what GET_MAX_FRAME reports. -/
def fifoSize : Nat := 64
/-- F_REF, in hertz. -/
def fRef : Nat := 13560000
/-- TIMEOUT_RELAX, the factor TRANSCEIVE applies to its timeout. -/
def timeoutRelax : Nat := 10
/-- POWER_OFF_HOLD_US. -/
def powerOffHoldUs : Nat := 10000
/-- RF_OFF_HOLD_US. -/
def rfOffHoldUs : Nat := 100000
/-- POLL_YIELD_US. -/
def pollYieldUs : Nat := 1000

/-! ## Free values -/

/-- FREE VALUE (log 3): whether ENV answers the transaction of this number with failure (R66). -/
opaque Config.envFails : Nat → Bool

/-- FREE VALUE (log 3): byte number `i` of ENV's answer to transaction number `t` (R67). -/
opaque Config.envByte : Nat → Nat → Byte

/-- FREE VALUE (log 6): the byte a buffer holds at a host offset where its content is unspecified (R33, R34).
The first argument counts how often that buffer's content has become unspecified. -/
opaque Config.bufByte : Nat → Nat → Byte

/-- FREE VALUE (log 14): the byte HOST reads from RXBUF while the drain's bytes may be partly written (R361),
by the number of host-bus reads so far and the host offset. -/
opaque Config.unsettledByte : Nat → Nat → Byte

/-- FREE VALUE (log 9): the length of the block's DEFAULTS_TABLE, 0..128 (R220). -/
opaque Config.defaultsLength : Fin 129

/-- FREE VALUE (log 9): entry `k` of the block's DEFAULTS_TABLE, which the source does not give (R220). -/
opaque Config.defaultsEntry : Nat → Entry

/-- FREE VALUE (log 9): the block's PROFILE_TABLE, which the source does not give (R222). -/
opaque Config.profileTable : ProfileTable

/-- The parameters the block is built with: the default of R9 where it has one, a free value for the two tables. -/
def Params.block : Params where
  regs := RegMap.default
  defaults := (List.range Config.defaultsLength.val).map Config.defaultsEntry
  profiles := Config.profileTable
  txMax := 256
  pollLimit := none

end Sys2Proof
end

