-- ==== Sys2Proof/Machine/State.lean ====
section
/-! DEFINITION. The block's state (10_state.md R20, R38), the inputs and outputs of its ports as plain data, the
state after block reset (R42), and the reasons a step can stop. -/

namespace Sys2Proof.Machine

/-- The error codes of STATUS.ECODE (60_exceptions.md R310). Codes 10..15 are never produced. -/
inductive ErrCode where
  | none | transport | timeout | link | empty | config | timerRange | crc | illegal | pollLimit
deriving DecidableEq, Repr

/-- The transceive states of STATUS.PHASE (10_state.md R31). 7 is never produced. -/
inductive Phase where
  | idle | armed | streaming | await | drain | success | error
deriving DecidableEq, Repr

/-- STATUS by its fields (10_state.md R25). The reserved bits read 0 and nothing writes them, so they are not
held; `Status.toWord` is the register as HOST reads it (log 13). -/
structure Status where
  busy : Bool
  done : Bool
  err : Bool
  trunc : Bool
  cmdOvr : Bool
  ecode : ErrCode
  phase : Phase
deriving DecidableEq, Repr

/-- CTRL by its fields (10_state.md R32). Bits 31:3 read 0 and ignore writes, so they are not held (log 13). -/
structure Ctrl where
  crcAbort : Bool
  surplusFlush : Bool
  irqEn : Bool
deriving DecidableEq, Repr

/-- SP, the step pointer (10_state.md R35): the step of the running command's pseudocode that SEQ performs next.
A step is one transport transaction, Hold, Yield or the end of the command, with the pure computation before it
(00_scope.md R12). `op i` is step `i` of a command's straight-line listing; the other names are the steps of
TRANSCEIVE's loops (42_transceive.md R170). -/
inductive Sp where
  /-- step `i` of the command's straight-line listing -/
  | op (i : Nat)
  /-- TRANSCEIVE: PHASE <- ARMED, then STREAMING; FifoWrite of the first chunk -/
  | firstChunk
  /-- TRANSCEIVE: RegWrite(COMMAND, CMD_TRANSCEIVE) -/
  | startExchange
  /-- TRANSCEIVE: tx_off <- chunk after the TRANSCEIVE command, then the loop test -/
  | streamEntry
  /-- TRANSCEIVE: FifoWrite of a later chunk, or the loop test where the chunk is 0 -/
  | nextChunk
  /-- TRANSCEIVE: tx_off <- tx_off + chunk after a later chunk, then the loop test -/
  | streamBack
  /-- TRANSCEIVE: c <- RegRead(COMMAND) -/
  | pollCommand
  /-- TRANSCEIVE: test c, then clear IRQ_RX or read PRIMARY_STATUS -/
  | pollStatus
  /-- TRANSCEIVE: test s, then read ERROR_FLAG, read INTERRUPT_RQ or end the iteration -/
  | pollFlags
  /-- TRANSCEIVE: test e -/
  | testError
  /-- TRANSCEIVE: test q -/
  | testIrq
  /-- TRANSCEIVE: raise Error(TIMEOUT) after the timer flag's clear -/
  | timedOut
  /-- TRANSCEIVE: PHASE <- DRAIN; avail <- RegRead(FIFO_LENGTH) -/
  | drainLength
  /-- TRANSCEIVE: test avail, then FifoRead -/
  | drainRead
  /-- TRANSCEIVE: RXBUF takes the bytes read; test for a surplus flush, then its read or the end -/
  | drainFlush
  /-- TRANSCEIVE: the flush's write where it is needed, or the end -/
  | flushWrite
  /-- TRANSCEIVE: the end, after the flush's write -/
  | finish
deriving DecidableEq, Repr

/-- The hidden sequencer state: the latched command and operands (10_state.md R37), SP (R35), the loop variables of
R38 under the names the spec gives them, and the variable `bytes` of 42_transceive.md R170. -/
structure Seq where
  lcmd : Word
  larg0 : Word
  larg1 : Word
  larg2 : Word
  sp : Sp
  /-- tx_off: bytes of TXBUF streamed -/
  txOff : Nat
  /-- fill: the last FIFO_LENGTH value read while streaming -/
  fill : Byte
  chunk : Nat
  /-- polls: completion-poll iterations with no event -/
  polls : Nat
  /-- c: the COMMAND value of the poll iteration -/
  c : Byte
  /-- s: the PRIMARY_STATUS value of the poll iteration -/
  s : Byte
  /-- e: the ERROR_FLAG value of the poll iteration -/
  e : Byte
  /-- q: the INTERRUPT_RQ value of the poll iteration -/
  q : Byte
  /-- avail: the FIFO_LENGTH value at completion -/
  avail : Byte
  /-- n: the narrowed receive length -/
  n : Nat
  /-- bytes: what the drain's FifoRead returned, until RXBUF takes it in the next step -/
  bytes : List Byte
  /-- k: table index -/
  k : Nat
  /-- v: the value a primitive read -/
  v : Byte
  /-- p: the prescaler of the timer pair -/
  p : Byte
  /-- d: the divisor of the timer pair -/
  d : Byte
deriving DecidableEq, Repr

/-- SEQ idle: the spec gives the hidden state no value here (R42). Zero and the first step, DESIGN CHOICE
(log 7); no rule reads them before acceptance has written them. -/
def Seq.idle : Seq where
  lcmd := 0
  larg0 := 0
  larg1 := 0
  larg2 := 0
  sp := .op 0
  txOff := 0
  fill := 0
  chunk := 0
  polls := 0
  c := 0
  s := 0
  e := 0
  q := 0
  avail := 0
  n := 0
  bytes := []
  k := 0
  v := 0
  p := 0
  d := 0

/-- The buffers' bytes: cells (host offset, byte) in one canonical form, offsets strictly rising. An unlisted
offset has no specified value (R33, R34). -/
abbrev Memory := List Host.Cell

/-- The sizes of a host-bus access (20_memory.md R60): 1, 2 or 4 bytes. -/
inductive AccessSize where
  | one | two | four
deriving DecidableEq, Repr

/-- What HOST or the system does before SEQ's next step (20_memory.md R60, R78). -/
inductive HostTurn where
  /-- HOST does nothing before SEQ's next step -/
  | quiet
  /-- a host-bus read -/
  | read (offset : BitVec 12) (size : AccessSize)
  /-- a host-bus write -/
  | write (offset : BitVec 12) (size : AccessSize) (data : Word)
  /-- block reset asserted and released (70_reset_and_hazards.md R350) -/
  | reset
deriving DecidableEq, Repr

/-- ENV's answer to a transport transaction (20_memory.md R64): failure, or success with the bytes it returns. A
byte a read needs beyond those listed is a free value (log 3). -/
inductive Answer where
  | fail
  | ok (bytes : List Byte)
deriving DecidableEq, Repr

/-- What SEQ does at the transport port and in time (00_scope.md R11): the four transactions of 20_memory.md R64
with the slot they carry and ENV's answer, and the two waits with their least duration in microseconds. -/
inductive PortEvent where
  /-- RegRead(addr); `none` is a failure -/
  | regRead (slot addr : Byte) (answer : Option Byte)
  /-- RegWrite(addr, value) -/
  | regWrite (slot addr value : Byte) (ok : Bool)
  /-- FifoRead(n); `none` is a failure -/
  | fifoRead (slot : Byte) (n : Nat) (answer : Option (List Byte))
  /-- FifoWrite(bytes, number of bytes) -/
  | fifoWrite (slot : Byte) (bytes : List Byte) (ok : Bool)
  /-- Hold(us) -/
  | hold (us : Nat)
  /-- Yield(us) -/
  | yield (us : Nat)
deriving DecidableEq, Repr

/-- Why the machine stops. The spec's errors are not faults: they end a command and the machine goes on. -/
inductive Fault where
  /-- Raised by a host-bus write to TXBUF while BUSY = 1: a race with SEQ's reads (20_memory.md R84,
  70_reset_and_hazards.md R362), which R362 says a model should refuse. Safe: the model stops where the block
  goes on (log 10). -/
  | txbufRace
deriving DecidableEq, Repr

/-- What has no meaning. -/
inductive Refusal where
  /-- Raised by an arm of `exec` whose command has no meaning yet; no arm does. Safe. -/
  | notModelled (mnemonic : String)
  /-- Raised by a host-bus access that is misaligned, or narrower than a register (20_memory.md R70: refused,
  no meaning in the model). Safe: the model stops where the block must answer something (log 11). -/
  | hostAccess
deriving DecidableEq, Repr

/-- The state of the block (10_state.md R20), its parameters, and the model's own fields for what stands at its ports. -/
structure State where
  /-- the parameters of R40, which nothing writes (log 8) -/
  cfg : Params
  /-- CMD (R24) -/
  cmd : Word
  /-- STATUS (R25) -/
  status : Status
  /-- CTRL (R32) -/
  ctrl : Ctrl
  /-- ARG0 (R22) -/
  arg0 : Word
  /-- ARG1 (R22) -/
  arg1 : Word
  /-- ARG2 (R22) -/
  arg2 : Word
  /-- RESULT (R23) -/
  result : Word
  /-- TXBUF (R33) and RXBUF (R34), by host offset (20_memory.md R68) -/
  mem : Memory
  /-- the hidden sequencer state (R35, R37, R38) -/
  seq : Seq
  /-- the model's own: host-bus accesses and resets still to come, in bus order (log 1) -/
  hostIn : List HostTurn
  /-- the model's own: read data returned to HOST, newest first (log 12) -/
  busOut : List Word
  /-- the model's own: ENV's answers still to come, as far as given (log 3) -/
  envIn : List Answer
  /-- the model's own: the number of transactions ENV has answered (log 3) -/
  txns : Nat
  /-- the model's own: how often TXBUF's content has become unspecified (log 6) -/
  txEpoch : Nat
  /-- the model's own: how often RXBUF's content has become unspecified (log 6) -/
  rxEpoch : Nat
  /-- the model's own: what SEQ has done at the transport port, newest first (log 12) -/
  trace : List PortEvent
deriving DecidableEq, Repr

/-- STATUS after block reset (R42). -/
def Status.reset : Status where
  busy := false
  done := false
  err := false
  trunc := false
  cmdOvr := false
  ecode := .none
  phase := .idle

/-- CTRL after block reset (R42). -/
def Ctrl.reset : Ctrl where
  crcAbort := false
  surplusFlush := false
  irqEn := false

/-- The block after block reset (10_state.md R42, 70_reset_and_hazards.md R350), with nothing at its ports yet. -/
def State.reset : State where
  cfg := Params.block
  cmd := 0
  status := Status.reset
  ctrl := Ctrl.reset
  arg0 := 0
  arg1 := 0
  arg2 := 0
  result := 0
  mem := []
  seq := Seq.idle
  hostIn := []
  busOut := []
  envIn := []
  txns := 0
  txEpoch := 0
  rxEpoch := 0
  trace := []

end Sys2Proof.Machine
end

