-- ==== Sys2Proof/Machine/Flags.lean ====
section
/-! DEFINITION. STATUS, CTRL and IRQ_OUT: the registers as words, and every way the spec changes their fields
(10_state.md R25 to R32, 60_exceptions.md R310 to R320). -/

namespace Sys2Proof.Machine

/-- The four bits of STATUS.ECODE (60_exceptions.md R310). -/
def ErrCode.code : ErrCode → BitVec 4
  | .none => 0
  | .transport => 1
  | .timeout => 2
  | .link => 3
  | .empty => 4
  | .config => 5
  | .timerRange => 6
  | .crc => 7
  | .illegal => 8
  | .pollLimit => 9

/-- The three bits of STATUS.PHASE (10_state.md R31). -/
def Phase.code : Phase → BitVec 3
  | .idle => 0
  | .armed => 1
  | .streaming => 2
  | .await => 3
  | .drain => 4
  | .success => 5
  | .error => 6

/-- STATUS as HOST reads it (R25): reserved bits [7:5] and [31:15] are 0. -/
def Status.toWord (st : Status) : Word :=
  (0#17 ++ st.phase.code ++ st.ecode.code ++ 0#3 ++ BitVec.ofBool st.cmdOvr ++ BitVec.ofBool st.trunc ++
    BitVec.ofBool st.err ++ BitVec.ofBool st.done ++ BitVec.ofBool st.busy : BitVec 32)

/-- Command acceptance (30_encoding.md R101): BUSY set; DONE, ERR, TRUNC, ECODE and PHASE cleared; CMD_OVR kept (R28). -/
def Status.accepted (st : Status) : Status :=
  { st with busy := true, done := false, err := false, trunc := false, ecode := .none, phase := .idle }

/-- A CMD write while BUSY = 1 (R24, R316). -/
def Status.overrun (st : Status) : Status :=
  { st with cmdOvr := true }

/-- A command's end without error (R311). -/
def Status.completed (st : Status) : Status :=
  { st with busy := false, done := true }

/-- A command's end with an error (R312). `inTransceive`: the command is TRANSCEIVE and the error is not ILLEGAL. -/
def Status.failed (inTransceive : Bool) (code : ErrCode) (st : Status) : Status :=
  { st with
    busy := false
    done := true
    err := true
    trunc := false
    ecode := code
    phase := if inTransceive then .error else st.phase }

/-- A HOST write of `v` to STATUS (R26): DONE, ERR and CMD_OVR are cleared where `v` has their bit set. -/
def Status.acknowledge (v : Word) (st : Status) : Status :=
  { st with
    done := st.done && !v.getLsbD 1
    err := st.err && !v.getLsbD 2
    cmdOvr := st.cmdOvr && !v.getLsbD 4 }

/-- CTRL as HOST reads it (R32): bits [31:3] are 0. -/
def Ctrl.toWord (c : Ctrl) : Word :=
  (0#29 ++ BitVec.ofBool c.irqEn ++ BitVec.ofBool c.surplusFlush ++ BitVec.ofBool c.crcAbort : BitVec 32)

/-- What a HOST write of `v` leaves in CTRL (R32): bits [31:3] of `v` are ignored. -/
def Ctrl.ofWord (v : Word) : Ctrl where
  crcAbort := v.getLsbD 0
  surplusFlush := v.getLsbD 1
  irqEn := v.getLsbD 2

/-- IRQ_OUT = CTRL.IRQ_EN AND STATUS.DONE (60_exceptions.md R320). -/
def State.irqOut (s : State) : Bool :=
  s.ctrl.irqEn && s.status.done

end Sys2Proof.Machine
end

