-- ==== Sys2Proof/Machine/Ops.lean ====
section
/-! DEFINITION. The named operations over memory and the transport port, the end of a command with and without
error, and the straight-line listing that most commands are written in. -/

namespace Sys2Proof.Machine

/-! ## The buffers (10_state.md R33, R34; 20_memory.md R68) -/

/-- The host offset of TXBUF[k]. -/
def txAddr (k : Nat) : Nat := 0x100 + k
/-- The host offset of RXBUF[k]. -/
def rxAddr (k : Nat) : Nat := 0x200 + k

/-- Whether a host offset is in TXBUF, 0x100..0x1FF. -/
def inTxBuf (a : Nat) : Bool := decide (0x100 ≤ a) && decide (a < 0x200)
/-- Whether a host offset is in RXBUF, 0x200..0x2FF. -/
def inRxBuf (a : Nat) : Bool := decide (0x200 ≤ a) && decide (a < 0x300)

/-- The specified content of one byte: none at an offset no cell lists. -/
def Memory.read (m : Memory) (a : Nat) : Option Byte :=
  match m with
  | [] => none
  | (b, v) :: rest => if a = b then some v else Memory.read rest a

/-- Write one byte, keeping the offsets rising. -/
def Memory.write (m : Memory) (a : Nat) (v : Byte) : Memory :=
  match m with
  | [] => [(a, v)]
  | (b, w) :: rest =>
    if a < b then (a, v) :: (b, w) :: rest
    else if a = b then (a, v) :: rest
    else (b, w) :: Memory.write rest a v

/-- Write bytes at successive offsets from `a` on. -/
def Memory.writeBytes (m : Memory) (a : Nat) : List Byte → Memory
  | [] => m
  | v :: vs => Memory.writeBytes (m.write a v) (a + 1) vs

/-- RXBUF[0..255] become unspecified (60_exceptions.md R312): no cell of RXBUF is left. -/
def Memory.dropRx (m : Memory) : Memory :=
  m.filter fun cell => !inRxBuf cell.1

/-- The canonical form: offsets strictly rising (an unlisted byte has no value, so no cell can repeat it). -/
def Memory.wf (m : Memory) : Bool :=
  match m with
  | [] => true
  | (a, _) :: rest => rest.all (fun cell => decide (a < cell.1)) && Memory.wf rest

/-- Every cell lies in TXBUF or RXBUF. -/
def Memory.inBuffers (m : Memory) : Bool :=
  m.all fun cell => inTxBuf cell.1 || inRxBuf cell.1

/-- The byte a buffer holds at a host offset: the cell's, or a free value where the content is unspecified (log 6). -/
def State.bufByte (s : State) (a : Nat) : Byte :=
  (s.mem.read a).getD (Config.bufByte (if inRxBuf a then s.rxEpoch else s.txEpoch) a)

/-- TXBUF[off .. off+n-1] as it stands now (42_transceive.md R176). -/
def State.txBytes (s : State) (off n : Nat) : List Byte :=
  (List.range n).map fun j => s.bufByte (txAddr (off + j))

/-- RXBUF's content becomes unspecified. -/
def forgetRx (s : State) : State :=
  { s with mem := s.mem.dropRx, rxEpoch := s.rxEpoch + 1 }

/-- The drain (42_transceive.md R183, 10_state.md R34): RXBUF[0..] hold the bytes, the rest becomes unspecified. RXBUF
takes no more than its 256 bytes; a FifoRead of a run returns at most 255 (R183). -/
def storeRx (bytes : List Byte) (s : State) : State :=
  { s with mem := s.mem.dropRx.writeBytes (rxAddr 0) (bytes.take 256), rxEpoch := s.rxEpoch + 1 }

/-! ## The end of a command (60_exceptions.md R311, R312) -/

/-- complete() with RESULT <- r (R311). -/
def complete (r : Word) (s : State) : State :=
  { s with result := r, status := s.status.completed, seq := Seq.idle }

/-- raise Error(code, r) (R312): the one way a command ends with an error. `inTransceive`: the command is TRANSCEIVE
and the code is not ILLEGAL; then PHASE becomes ERROR and RXBUF unspecified. -/
def endWithError (inTransceive : Bool) (code : ErrCode) (r : Word) (s : State) : State :=
  { (if inTransceive then forgetRx s else s) with
    result := r
    status := s.status.failed inTransceive code
    seq := Seq.idle }

/-- raise Error(code, r) in a command other than TRANSCEIVE, or ILLEGAL in any (R312). -/
def raiseError (code : ErrCode) (r : Word) (s : State) : State :=
  endWithError false code r s

/-- raise Error(code) in TRANSCEIVE (R312, 42_transceive.md R186). -/
def raiseTransceive (code : ErrCode) (s : State) : State :=
  endWithError true code 0 s

/-- SP <- the given step. -/
def goto (sp : Sp) (s : State) : State :=
  { s with seq := { s.seq with sp := sp } }

/-! ## The transport port (20_memory.md R64 to R67)

Each primitive takes what the command does when ENV answers failure and when it answers success. -/

/-- ENV's answer to the transaction about to be issued: the next one given, else a free one (log 3). -/
def State.nextAnswer (s : State) : Answer :=
  match s.envIn with
  | [] => if Config.envFails s.txns then .fail else .ok []
  | a :: _ => a

/-- Byte `i` of an answer's bytes; a free value past their end (log 3). -/
def State.answerByte (s : State) (bytes : List Byte) (i : Nat) : Byte :=
  bytes.getD i (Config.envByte s.txns i)

/-- One transaction has been answered: the answer is used up and the event recorded. -/
def answered (ev : PortEvent) (s : State) : State :=
  { s with envIn := s.envIn.tail, txns := s.txns + 1, trace := ev :: s.trace }

/-- A wait of SEQ (00_scope.md R11): an ordering event, no transaction. -/
def waited (ev : PortEvent) (s : State) : State :=
  { s with trace := ev :: s.trace }

/-- RegRead(a). -/
def regRead (slot a : Byte) (onFail : State → State) (onOk : Byte → State → State) (s : State) : State :=
  match s.nextAnswer with
  | .fail => onFail (answered (.regRead slot a none) s)
  | .ok bytes => onOk (s.answerByte bytes 0) (answered (.regRead slot a (some (s.answerByte bytes 0))) s)

/-- RegWrite(a, v). -/
def regWrite (slot a v : Byte) (onFail : State → State) (onOk : State → State) (s : State) : State :=
  match s.nextAnswer with
  | .fail => onFail (answered (.regWrite slot a v false) s)
  | .ok _ => onOk (answered (.regWrite slot a v true) s)

/-- FifoWrite(bytes, number of bytes). -/
def fifoWrite (slot : Byte) (bytes : List Byte) (onFail : State → State) (onOk : State → State) (s : State) : State :=
  match s.nextAnswer with
  | .fail => onFail (answered (.fifoWrite slot bytes false) s)
  | .ok _ => onOk (answered (.fifoWrite slot bytes true) s)

/-- The `n` bytes an answer to FifoRead(n) returns, the first one first. -/
def State.answerBytes (s : State) (bytes : List Byte) (n : Nat) : List Byte :=
  (List.range n).map (s.answerByte bytes)

/-- FifoRead(n). -/
def fifoRead (slot : Byte) (n : Nat) (onFail : State → State) (onOk : List Byte → State → State) (s : State) : State :=
  match s.nextAnswer with
  | .fail => onFail (answered (.fifoRead slot n none) s)
  | .ok bytes => onOk (s.answerBytes bytes n) (answered (.fifoRead slot n (some (s.answerBytes bytes n))) s)

/-- v <- the byte read, and on to a step. -/
def holdV (sp : Sp) (v : Byte) (s : State) : State :=
  { s with seq := { s.seq with v := v, sp := sp } }

/-! ## Straight-line listings

A command with no loop of its own is a list of steps; SP is the index of the next one. The register procedures of
40_primitives.md R131 to R133 are two steps each: the read, and the test with the write it may need. Where the
test finds the desired state no write is issued and the next step of the list runs at once (R12, R140). The loop of
R134 is two steps as well: its entry, and the back-edge, which recurs until every entry is written. -/

/-- A step of a listing. `r` is the RESULT of a TRANSPORT error there (R130: 0 unless the rule says otherwise). -/
inductive SeqOp where
  /-- v <- RegRead(a) -/
  | read (a : Byte) (r : Word)
  /-- RegWrite(a, v) -/
  | write (a v : Byte)
  /-- if (v & m) != 0: RegWrite(a, v & ~m) -/
  | clearIfSet (a m : Byte) (r : Word)
  /-- if (v & m) != m: RegWrite(a, v | m) -/
  | setIfClear (a m : Byte) (r : Word)
  /-- if (v & m) != b: RegWrite(a, (v & ~m) | (b & m)) -/
  | maskIfDiffers (a m b : Byte) (r : Word)
  /-- the loop of apply_table (R134), entered: the write of entry k = 0, where there is one -/
  | table (entries : List Entry)
  /-- its back-edge: the write of the entry after entry k, where there is one -/
  | tableNext (entries : List Entry)
  /-- Hold(us) -/
  | hold (us : Nat)
deriving DecidableEq, Repr

/-- clear_bits(a, m) (R131). -/
def clearBitsOps (a m : Byte) (r : Word := 0) : List SeqOp := [.read a r, .clearIfSet a m r]
/-- set_bits(a, m) (R132). -/
def setBitsOps (a m : Byte) (r : Word := 0) : List SeqOp := [.read a r, .setIfClear a m r]
/-- set_masked(a, m, b) (R133). -/
def setMaskedOps (a m b : Byte) (r : Word := 0) : List SeqOp := [.read a r, .maskIfDiffers a m b r]
/-- apply_table(entries) (R134). -/
def tableOps (entries : List Entry) : List SeqOp := [.table entries, .tableNext entries]

/-- The value clear_bits writes over a register that reads `v` (R131); none where it writes nothing. -/
def clearedValue (v m : Byte) : Option Byte := if v &&& m = 0 then none else some (v &&& ~~~m)
/-- The value set_bits writes over a register that reads `v` (R132); none where it writes nothing. -/
def setValue (v m : Byte) : Option Byte := if v &&& m = m then none else some (v ||| m)
/-- The value set_masked writes over a register that reads `v` (R133); none where it writes nothing. -/
def maskedValue (v m b : Byte) : Option Byte := if v &&& m = b then none else some ((v &&& ~~~m) ||| (b &&& m))

/-- The loop variable k <- the given index (R134). -/
def setK (k : Nat) (s : State) : State :=
  { s with seq := { s.seq with k := k } }

/-- One step of SEQ in a listing: `ops` are the steps from index `i` on, and `fin` is the end of the command. -/
def runOps (slot : Byte) (fin : State → State) (ops : List SeqOp) (i : Nat) (s : State) : State :=
  match ops with
  | [] => fin s
  | .read a r :: _ => regRead slot a (raiseError .transport r) (holdV (.op (i + 1))) s
  | .write a v :: _ => regWrite slot a v (raiseError .transport 0) (goto (.op (i + 1))) s
  | .clearIfSet a m r :: rest =>
    match clearedValue s.seq.v m with
    | none => runOps slot fin rest (i + 1) s
    | some w => regWrite slot a w (raiseError .transport r) (goto (.op (i + 1))) s
  | .setIfClear a m r :: rest =>
    match setValue s.seq.v m with
    | none => runOps slot fin rest (i + 1) s
    | some w => regWrite slot a w (raiseError .transport r) (goto (.op (i + 1))) s
  | .maskIfDiffers a m b r :: rest =>
    match maskedValue s.seq.v m b with
    | none => runOps slot fin rest (i + 1) s
    | some w => regWrite slot a w (raiseError .transport r) (goto (.op (i + 1))) s
  | .table entries :: rest =>
    match entries[0]? with
    | none => runOps slot fin rest (i + 1) s
    | some e => regWrite slot e.1 e.2 (raiseError .transport 0) (goto (.op (i + 1))) (setK 0 s)
  | .tableNext entries :: rest =>
    match entries[s.seq.k + 1]? with
    | none => runOps slot fin rest (i + 1) s
    | some e =>
      regWrite slot e.1 e.2 (raiseError .transport (BitVec.ofNat 32 (s.seq.k + 1))) (goto (.op i))
        (setK (s.seq.k + 1) s)
  | .hold us :: _ => goto (.op (i + 1)) (waited (.hold us) s)

/-- The steps of a listing from SP on. SP names a listing's step in every state a run reaches; anywhere else the
listing is at its end (log 17). -/
def Sp.rest (sp : Sp) (ops : List SeqOp) : List SeqOp :=
  match sp with
  | .op i => ops.drop i
  | _ => []

/-- The index SP gives in a listing. -/
def Sp.index (sp : Sp) : Nat :=
  match sp with
  | .op i => i
  | _ => 0

/-- One step of SEQ in a command written as a listing. -/
def runListing (slot : Byte) (ops : List SeqOp) (fin : State → State) (s : State) : State :=
  runOps slot fin (s.seq.sp.rest ops) s.seq.sp.index s

/-! ## Decode errors -/

/-- A command word that Decode rejects (30_encoding.md R103): error ILLEGAL, RESULT 0, no transaction. -/
def raiseIllegal (s : State) : State :=
  raiseError .illegal 0 s

end Sys2Proof.Machine
end

