-- ==== Sys2Proof/Machine/Constants.lean ====
section
/-! DEFINITION. The constant queries (45_constants.md): no transaction, so one step each; SLOT is not used. -/

namespace Sys2Proof.Machine

/-- GET_SPEEDS (R280): bit i set for each rate index i supported. -/
def execGetSpeeds (_slot : Byte) (s : State) : Host.Outcome State Fault Refusal :=
  .next (complete 0x0000000F s)

/-- GET_CARRIER (R281): 13,560,000 Hz. -/
def execGetCarrier (_slot : Byte) (s : State) : Host.Outcome State Fault Refusal :=
  .next (complete (BitVec.ofNat 32 fRef) s)

/-- GET_MAX_FRAME (R282): the FIFO's size. -/
def execGetMaxFrame (_slot : Byte) (s : State) : Host.Outcome State Fault Refusal :=
  .next (complete (BitVec.ofNat 32 fifoSize) s)

end Sys2Proof.Machine
end

