-- ==== Sys2Proof/Machine/Operands.lean ====
section
/-! DEFINITION. The operand formats (30_encoding.md R104 to R109): what a command takes from its latched operands,
and the values SET_RF_MODE assembles from them (43_link_config.md R226, R227). -/

namespace Sys2Proof.Machine

/-! ## Format MODE (R104), in LARG0 -/

def modeTxLastBits (m : Word) : BitVec 3 := m.extractLsb' 0 3
def modeRxAlign (m : Word) : BitVec 3 := m.extractLsb' 4 3
def modeCrypto1 (m : Word) : Bool := m.getLsbD 8
def modeTxCrc (m : Word) : Bool := m.getLsbD 9
def modeRxCrc (m : Word) : Bool := m.getLsbD 10
def modeParityEn (m : Word) : Bool := m.getLsbD 11
def modeParityOdd (m : Word) : Bool := m.getLsbD 12

/-- The BIT_FRAMING byte of R226: receive alignment above transmit-last-bits, cut to a byte. -/
def bitFramingByte (rm : RegMap) (m : Word) : Byte :=
  ((modeRxAlign m).setWidth 8 <<< rm.rxalignShift) ||| (modeTxLastBits m).setWidth 8

/-- `mask` when the flag is set, else 0. -/
def whenSet (flag : Bool) (mask : Byte) : Byte :=
  if flag then mask else 0

/-- redundancy_byte(m) of R227. -/
def redundancyByte (rm : RegMap) (m : Word) : Byte :=
  whenSet (modeParityEn m) rm.crParityEn ||| whenSet (modeParityOdd m) rm.crParityOdd |||
    whenSet (modeTxCrc m) rm.crTxCrc ||| whenSet (modeRxCrc m) rm.crRxCrc

/-! ## Format XFER (R105), in LARG0..2 -/

/-- tx_len = LARG0[15:0] -/
def xferTxLen (q : Seq) : Nat := (q.larg0.extractLsb' 0 16).toNat
/-- rx_capacity = LARG1[15:0] -/
def xferCap (q : Seq) : Nat := (q.larg1.extractLsb' 0 16).toNat

/-! ## Format BITS (R106), in LARG0 -/

def bitsAddr (m : Word) : Byte := m.extractLsb' 0 8
def bitsMask (m : Word) : Byte := m.extractLsb' 8 8
def bitsBits (m : Word) : Byte := m.extractLsb' 16 8

/-! ## Format TABLE (R107), in LARG0 -/

/-- count = LARG0[15:0] -/
def tableCount (m : Word) : Nat := (m.extractLsb' 0 16).toNat

/-! ## Format TIMER (R108), in LARG2; also timeout_usec of XFER -/

/-- timeout_usec = LARG2[31:0] -/
def timeoutUsec (q : Seq) : Nat := q.larg2.toNat

/-! ## IMM8 (R109) -/

/-- IMM8[0] of a command whose IMM8-use is flag. -/
def flagOf (imm8 : Byte) : Bool := imm8.getLsbD 0

/-- PROFILE_TABLE[r], where r is in 0..3 (43_link_config.md R222, R223). -/
def profileAt (t : ProfileTable) (r : Byte) : Option Profile :=
  match r.toNat with
  | 0 => some t.r106k
  | 1 => some t.r212k
  | 2 => some t.r424k
  | 3 => some t.r848k
  | _ => none

end Sys2Proof.Machine
end

