-- ==== Sys2Proof/Machine/Lifecycle.lean ====
section
/-! DEFINITION. The lifecycle controller (44_lifecycle.md): RESET_INIT and SET_RF_POWER. -/

namespace Sys2Proof.Machine

/-- The masked update of R261 that switches the RF field. -/
def rfPowerOps (rm : RegMap) (on : Bool) : List SeqOp :=
  setMaskedOps rm.txControl rm.rfEn (if on then rm.rfEn else 0)

/-- The listing of RESET_INIT (R260), steps 1 to 8. -/
def resetInitOps (rm : RegMap) : List SeqOp :=
  setBitsOps rm.control rm.powerdown ++
  [.hold powerOffHoldUs] ++
  clearBitsOps rm.control rm.powerdown ++
  [.write rm.page 0x00, .write rm.txControl rm.txctrlBringup] ++
  rfPowerOps rm false ++
  [.hold rfOffHoldUs] ++
  rfPowerOps rm true

/-- RESET_INIT (R260). -/
def execResetInit (slot : Byte) (s : State) : Host.Outcome State Fault Refusal :=
  .next (runListing slot (resetInitOps s.cfg.regs) (complete 0) s)

/-- SET_RF_POWER (R261). -/
def execSetRfPower (slot imm8 : Byte) (s : State) : Host.Outcome State Fault Refusal :=
  .next (runListing slot (rfPowerOps s.cfg.regs (flagOf imm8)) (complete 0) s)

end Sys2Proof.Machine
end

