-- ==== Sys2Proof/Machine/LinkConfig.lean ====
section
/-! DEFINITION. Link configuration (43_link_config.md): APPLY_DEFAULTS, SET_SPEED, SET_RF_MODE and the diagnostic reads. -/

namespace Sys2Proof.Machine

/-- The listing of APPLY_DEFAULTS (R221): the flush, whose failure reports 0xFFFF, then DEFAULTS_TABLE. -/
def applyDefaultsOps (p : Params) : List SeqOp :=
  setBitsOps p.regs.control p.regs.flushFifo 0xFFFF ++ tableOps p.defaults

/-- APPLY_DEFAULTS (R221). -/
def execApplyDefaults (slot : Byte) (s : State) : Host.Outcome State Fault Refusal :=
  .next (runListing slot (applyDefaultsOps s.cfg) (complete (BitVec.ofNat 32 s.cfg.defaults.length)) s)

/-- The listing of SET_SPEED for a profile (R223): five masked updates, and the BPSK one where the profile's coding
is BPSK. -/
def setSpeedOps (rm : RegMap) (p : Profile) : List SeqOp :=
  setMaskedOps rm.rxControl1 rm.subcpMask p.subcp ++
  setMaskedOps rm.decoderControl rm.codingMask p.coding ++
  setMaskedOps rm.rxThreshold 0xFF p.threshold ++
  (if p.coding = rm.codingBpsk then setMaskedOps rm.bpskDemControl 0xFF p.bpskdem else []) ++
  setMaskedOps rm.coderControl rm.coderrateMask p.coderrate ++
  setMaskedOps rm.modWidth 0xFF p.modwidth

/-- SET_SPEED (R223): CONFIG for a rate index of 4 or more, before any transaction. -/
def execSetSpeed (slot rate : Byte) (s : State) : Host.Outcome State Fault Refusal :=
  .next <|
    match profileAt s.cfg.profiles rate with
    | none => raiseError .config 0 s
    | some p => runListing slot (setSpeedOps s.cfg.regs p) (complete 0) s

/-- The listing of SET_RF_MODE (R226) for the operand MODE. -/
def setRfModeOps (rm : RegMap) (m : Word) : List SeqOp :=
  [.write rm.bitFraming (bitFramingByte rm m)] ++
  (if modeCrypto1 m then setBitsOps rm.control rm.crypto1On else clearBitsOps rm.control rm.crypto1On) ++
  [.write rm.channelRedundancy (redundancyByte rm m)]

/-- SET_RF_MODE (R226). -/
def execSetRfMode (slot : Byte) (s : State) : Host.Outcome State Fault Refusal :=
  .next (runListing slot (setRfModeOps s.cfg.regs s.seq.larg0) (complete 0) s)

/-- The end of a command whose RESULT is the byte it read: RESULT <- zext_32(v) (R228). -/
def completeWithV (s : State) : State :=
  complete (s.seq.v.setWidth 32) s

/-- GET_ERROR (R228). -/
def execGetError (slot : Byte) (s : State) : Host.Outcome State Fault Refusal :=
  .next (runListing slot [.read s.cfg.regs.errorFlag 0] completeWithV s)

/-- GET_COLL_POS (R229). -/
def execGetCollPos (slot : Byte) (s : State) : Host.Outcome State Fault Refusal :=
  .next (runListing slot [.read s.cfg.regs.collPos 0] completeWithV s)

end Sys2Proof.Machine
end

