-- ==== Sys2Proof/Machine/Primitives.lean ====
section
/-! DEFINITION. The diagnostic commands of the bit-field register primitives (40_primitives.md R135 to R138). -/

namespace Sys2Proof.Machine

/-- CLEAR_BITS (R135). -/
def execClearBits (slot : Byte) (s : State) : Host.Outcome State Fault Refusal :=
  let m := s.seq.larg0
  .next (runListing slot (clearBitsOps (bitsAddr m) (bitsMask m)) (complete 0) s)

/-- SET_BITS (R136). -/
def execSetBits (slot : Byte) (s : State) : Host.Outcome State Fault Refusal :=
  let m := s.seq.larg0
  .next (runListing slot (setBitsOps (bitsAddr m) (bitsMask m)) (complete 0) s)

/-- SET_MASKED (R137). -/
def execSetMasked (slot : Byte) (s : State) : Host.Outcome State Fault Refusal :=
  let m := s.seq.larg0
  .next (runListing slot (setMaskedOps (bitsAddr m) (bitsMask m) (bitsBits m)) (complete 0) s)

/-- The entries of format TABLE (30_encoding.md R107) as TXBUF stands now: entry k is (TXBUF[2k], TXBUF[2k+1]). A
step uses only the entry it writes, so each is read when its write is issued (R138). -/
def txEntries (count : Nat) (s : State) : List Entry :=
  (List.range count).map fun k => (s.bufByte (txAddr (2 * k)), s.bufByte (txAddr (2 * k + 1)))

/-- APPLY_TABLE (R138): CONFIG for a count above TX_MAX/2, else the entries in order. -/
def execApplyTable (slot : Byte) (s : State) : Host.Outcome State Fault Refusal :=
  let count := tableCount s.seq.larg0
  .next <|
    if count > s.cfg.txMax / 2 then raiseError .config 0 s
    else runListing slot (tableOps (txEntries count s)) (complete (BitVec.ofNat 32 count)) s

end Sys2Proof.Machine
end

