-- ==== Sys2Proof/Machine/Timing.lean ====
section
/-! DEFINITION. The timing subsystem (41_timing.md): the timer search, the arming listing, and the two diagnostic
commands. All arithmetic is on natural numbers (R151, D17). -/

namespace Sys2Proof.Machine

/-- clk(i) = 13,560,000 / 2^i, floor (R150). -/
def timerClock (i : Nat) : Nat := fRef / 2 ^ i

/-- The divisor R151 tries with prescaler `i` for a timeout of `t` microseconds. -/
def timerDivisor (t i : Nat) : Nat := timerClock i * t / 1000000 + 1

/-- The achieved timeout of R151 for prescaler `i` and divisor `d`. -/
def timerAchieved (i d : Nat) : Nat := 1000000 / (timerClock i / d)

/-- Whether prescaler `i` is a candidate for timeout `t` (R151). -/
def timerCandidate (t i : Nat) : Bool :=
  decide (timerDivisor t i ≤ 255) && decide (timerDivisor t i ≤ timerClock i) &&
    decide (t ≤ timerAchieved i (timerDivisor t i))

/-- The overshoot of prescaler `i`: achieved - T. -/
def timerOvershoot (t i : Nat) : Nat := timerAchieved i (timerDivisor t i) - t

/-- The scan of R151 over the prescalers of a list: a candidate replaces the best one only with a strictly smaller
overshoot, so the first minimum is kept (D15). -/
def timerSearch (t : Nat) : List Nat → Option Nat → Option Nat
  | [], best => best
  | i :: is, best =>
    if timerCandidate t i then
      match best with
      | none => timerSearch t is (some i)
      | some j => timerSearch t is (if timerOvershoot t i < timerOvershoot t j then some i else some j)
    else timerSearch t is best

/-- derive_timer(T) (R151): the pair (p, d), or none where no prescaler of 0..20 is a candidate. -/
def deriveTimer (t : Nat) : Option (Byte × Byte) :=
  (timerSearch t (List.range 21) none).map fun i => (BitVec.ofNat 8 i, BitVec.ofNat 8 (timerDivisor t i))

/-- The five writes of arm_timer (R153) for the pair (p, d). -/
def armOps (rm : RegMap) (p d : Byte) : List SeqOp :=
  [.write rm.timerClock p,
   .write rm.timerControl rm.tmrMode,
   .write rm.interruptRq rm.irqTimer,
   .write rm.interruptEn (rm.irqSet ||| rm.irqTimer),
   .write rm.timerReload d]

/-- RESULT of the timer commands: `(d << 8) | p` (R154). -/
def timerResult (p d : Byte) : Word :=
  (d.setWidth 32 <<< 8) ||| p.setWidth 32

/-- The timer pair of the running command becomes (p, d). -/
def holdPair (p d : Byte) (s : State) : State :=
  { s with seq := { s.seq with p := p, d := d } }

/-- DERIVE_TIMER (R154): no transaction, so its one step is its end. -/
def execDeriveTimer (_slot : Byte) (s : State) : Host.Outcome State Fault Refusal :=
  .next <|
    match deriveTimer (timeoutUsec s.seq) with
    | none => raiseError .timerRange 0 s
    | some (p, d) => complete (timerResult p d) s

/-- The steps of ARM_TIMER once the pair is held. -/
def armStep (slot : Byte) (s : State) : State :=
  runListing slot (armOps s.cfg.regs s.seq.p s.seq.d) (complete (timerResult s.seq.p s.seq.d)) s

/-- ARM_TIMER (R155): the pair is derived in the first step, before any write. -/
def execArmTimer (slot : Byte) (s : State) : Host.Outcome State Fault Refusal :=
  .next <|
    if s.seq.sp = .op 0 then
      match deriveTimer (timeoutUsec s.seq) with
      | none => raiseError .timerRange 0 s
      | some (p, d) => armStep slot (holdPair p d s)
    else armStep slot s

end Sys2Proof.Machine
end

