-- ==== Sys2Proof/Machine/Transceive.lean ====
section
/-! DEFINITION. TRANSCEIVE (42_transceive.md R170): one definition per step of its pseudocode, and the command. Each
step begins with the pure computation that follows the step before it (00_scope.md R12), the writes of PHASE included
(log 4). -/

namespace Sys2Proof.Machine

/-- A transaction of TRANSCEIVE that fails ends it with TRANSPORT (R170, R312). -/
def failTransceive (s : State) : State :=
  raiseTransceive .transport s

/-- STATUS.PHASE <- ph (R188). -/
def setPhase (ph : Phase) (s : State) : State :=
  { s with status := { s.status with phase := ph } }

/-! ## Step 1, Idle to Armed (R172), and its end -/

/-- The seven writes of step 1 (R172): IDLE, the seven flags cleared, and the timer armed. -/
def transceiveArmWrites (rm : RegMap) (p d : Byte) : List Entry :=
  [(rm.command, rm.cmdIdle), (rm.interruptRq, rm.irqAll7), (rm.timerClock, p), (rm.timerControl, rm.tmrMode),
   (rm.interruptRq, rm.irqTimer), (rm.interruptEn, rm.irqSet ||| rm.irqTimer), (rm.timerReload, d)]

/-- After the last write of step 1: ARMED, replaced at once by STREAMING (R188). -/
def beginStreaming (s : State) : State :=
  setPhase .streaming (setPhase .armed s)

/-- The first chunk, min(64, tx_len) bytes, written without reading FIFO_LENGTH (R174). -/
def firstChunk (slot : Byte) (s : State) : State :=
  let chunk := min fifoSize (xferTxLen s.seq)
  fifoWrite slot (s.txBytes 0 chunk) failTransceive (goto .startExchange)
    (beginStreaming { s with seq := { s.seq with chunk := chunk } })

/-- The step that issues write `i` of step 1; the first chunk comes after the seventh. A step pointer past the seven,
which no run reaches, is read as the first chunk's (log 17). -/
def armWrite (slot : Byte) (i : Nat) (s : State) : State :=
  match (transceiveArmWrites s.cfg.regs s.seq.p s.seq.d)[i]? with
  | none => firstChunk slot s
  | some w => regWrite slot w.1 w.2 failTransceive (goto (if i = 6 then .firstChunk else .op (i + 1))) s

/-- The first step: the operand checks of R171, CONFIG before TIMER_RANGE (60_exceptions.md R319), then the IDLE
command. The timeout is relaxed tenfold (R173). -/
def transceiveFirst (slot : Byte) (s : State) : State :=
  if xferTxLen s.seq > s.cfg.txMax then raiseTransceive .config s
  else
    match deriveTimer (timeoutRelax * timeoutUsec s.seq) with
    | none => raiseTransceive .timerRange s
    | some (p, d) => armWrite slot 0 (holdPair p d s)

/-! ## Step 2, Armed to Streaming (R174 to R176), and the way into step 3 -/

/-- The TRANSCEIVE command, exactly once, after the first chunk (R174). -/
def startExchange (slot : Byte) (s : State) : State :=
  regWrite slot s.cfg.regs.command s.cfg.regs.cmdTransceive failTransceive (goto .streamEntry) s

/-- c <- RegRead(COMMAND), the first read of a poll iteration (R177). -/
def pollCommand (slot : Byte) (s : State) : State :=
  regRead slot s.cfg.regs.command failTransceive
    (fun b t => { t with seq := { t.seq with c := b, sp := .pollStatus } }) s

/-- The beginning of step 3 (R170): STATUS.PHASE <- AWAIT, polls <- 0. -/
def beginAwait (s : State) : State :=
  setPhase .await { s with seq := { s.seq with polls := 0 } }

/-- fill <- RegRead(FIFO_LENGTH) (R175). -/
def readFill (slot : Byte) (s : State) : State :=
  regRead slot s.cfg.regs.fifoLength failTransceive
    (fun b t => { t with seq := { t.seq with fill := b, sp := .nextChunk } }) s

/-- The loop test of step 2, and the step it leads to: the fill is read while bytes remain, else step 3 begins with the
first poll. -/
def streamLoop (slot : Byte) (s : State) : State :=
  if s.seq.txOff < xferTxLen s.seq then readFill slot s else pollCommand slot (beginAwait s)

/-- After the TRANSCEIVE command: tx_off <- chunk, and the loop is entered. -/
def streamEntry (slot : Byte) (s : State) : State :=
  streamLoop slot { s with seq := { s.seq with txOff := s.seq.chunk } }

/-- After a later chunk: tx_off <- tx_off + chunk, and back to the loop test. -/
def streamBack (slot : Byte) (s : State) : State :=
  streamLoop slot { s with seq := { s.seq with txOff := s.seq.txOff + s.seq.chunk } }

/-- The size of a later chunk (R175): min(64 - fill, tx_len - tx_off), and 0 when fill >= 64. -/
def laterChunk (q : Seq) : Nat :=
  if q.fill.toNat < fifoSize then min (fifoSize - q.fill.toNat) (xferTxLen q - q.txOff) else 0

/-- A later chunk (R175): written where it is not empty; else back to the loop test at once, with no Yield. -/
def nextChunk (slot : Byte) (s : State) : State :=
  let chunk := laterChunk s.seq
  if chunk = 0 then streamLoop slot { s with seq := { s.seq with chunk := 0 } }
  else
    fifoWrite slot (s.txBytes s.seq.txOff chunk) failTransceive (goto .streamBack)
      { s with seq := { s.seq with chunk := chunk } }

/-! ## The rest of step 3, AwaitCompletion (R177 to R182) -/

/-- Event (a), completion: c is exactly 0x00 (R178). Otherwise s <- RegRead(PRIMARY_STATUS) (R177). -/
def pollStatus (slot : Byte) (s : State) : State :=
  if s.seq.c = 0x00 then regWrite slot s.cfg.regs.interruptRq s.cfg.regs.irqRx failTransceive (goto .drainLength) s
  else
    regRead slot s.cfg.regs.primaryStatus failTransceive
      (fun b t => { t with seq := { t.seq with s := b, sp := .pollFlags } }) s

/-- Whether polls has reached a finite POLL_LIMIT (R182). -/
def pollLimitReached (limit : Option Nat) (polls : Nat) : Bool :=
  match limit with
  | none => false
  | some l => decide (l ≤ polls)

/-- The end of an iteration with no event (R182): polls counts it; POLL_LIMIT where it is reached, else Yield. -/
def endIteration (s : State) : State :=
  let t := { s with seq := { s.seq with polls := s.seq.polls + 1 } }
  if pollLimitReached s.cfg.pollLimit t.seq.polls then raiseTransceive .pollLimit t
  else goto .pollCommand (waited (.yield pollYieldUs) t)

/-- After the test for event (b): INTERRUPT_RQ is read only where STAT_IRQ is set in s (R177). -/
def readInterrupts (slot : Byte) (s : State) : State :=
  if s.seq.s &&& s.cfg.regs.statIrq ≠ 0 then
    regRead slot s.cfg.regs.interruptRq failTransceive
      (fun b t => { t with seq := { t.seq with q := b, sp := .testIrq } }) s
  else endIteration s

/-- ERROR_FLAG is read only where STAT_ERR is set in s (R177, R179). -/
def pollFlags (slot : Byte) (s : State) : State :=
  if s.seq.s &&& s.cfg.regs.statErr ≠ 0 then
    regRead slot s.cfg.regs.errorFlag failTransceive
      (fun b t => { t with seq := { t.seq with e := b, sp := .testError } }) s
  else readInterrupts slot s

/-- Event (b): LINK on a collision, parity or framing bit (R179), else CRC where CTRL.CRC_ABORT asks for it (R180). -/
def testError (slot : Byte) (s : State) : State :=
  if s.seq.e &&& (s.cfg.regs.errColl ||| s.cfg.regs.errParity ||| s.cfg.regs.errFraming) ≠ 0 then
    raiseTransceive .link s
  else if s.ctrl.crcAbort = true ∧ s.seq.e &&& s.cfg.regs.errCrc ≠ 0 then raiseTransceive .crc s
  else readInterrupts slot s

/-- Event (c): the timer interrupt without a receive interrupt in the same value (R181). -/
def testIrq (slot : Byte) (s : State) : State :=
  if s.seq.q &&& s.cfg.regs.irqTimer ≠ 0 ∧ s.seq.q &&& s.cfg.regs.irqRx = 0 then
    regWrite slot s.cfg.regs.interruptRq s.cfg.regs.irqTimer failTransceive (goto .timedOut) s
  else endIteration s

/-! ## Step 4, Drain (R183, R184), and step 5, Success (R185) -/

/-- STATUS.PHASE <- DRAIN (R170); avail <- RegRead(FIFO_LENGTH), the raw byte (R183). -/
def drainLength (slot : Byte) (s : State) : State :=
  regRead slot s.cfg.regs.fifoLength failTransceive
    (fun b t => { t with seq := { t.seq with avail := b, sp := .drainRead } }) (setPhase .drain s)

/-- EMPTY where nothing is available; else bytes <- FifoRead(min(avail, cap)) (R183). -/
def drainRead (slot : Byte) (s : State) : State :=
  if s.seq.avail = 0 then raiseTransceive .empty s
  else
    let n := min s.seq.avail.toNat (xferCap s.seq)
    fifoRead slot n failTransceive (fun bytes t => { t with seq := { t.seq with bytes := bytes, sp := .drainFlush } })
      { s with seq := { s.seq with n := n } }

/-- Whether the answer was cut to the requested capacity: avail > cap (R184). -/
def truncated (q : Seq) : Bool :=
  decide (xferCap q < q.avail.toNat)

/-- Step 5 (R185): TRUNC, RESULT <- n, PHASE <- SUCCESS, complete(). -/
def succeed (s : State) : State :=
  complete (BitVec.ofNat 32 s.seq.n)
    { s with status := { s.status with trunc := truncated s.seq, phase := .success } }

/-- RXBUF takes the bytes read (R183); then the surplus flush's read where CTRL.SURPLUS_FLUSH asks for it (R184), else
the end. -/
def drainFlush (slot : Byte) (s : State) : State :=
  let t := storeRx s.seq.bytes s
  if truncated s.seq && s.ctrl.surplusFlush then
    regRead slot s.cfg.regs.control failTransceive (holdV .flushWrite) t
  else succeed t

/-- The flush's write where FLUSH_FIFO is not set already (40_primitives.md R132), else the end. -/
def flushWrite (slot : Byte) (s : State) : State :=
  match setValue s.seq.v s.cfg.regs.flushFifo with
  | none => succeed s
  | some w => regWrite slot s.cfg.regs.control w failTransceive (goto .finish) s

/-! ## The command -/

/-- One step of SEQ in TRANSCEIVE (R170). -/
def transceiveStep (slot : Byte) (s : State) : State :=
  match s.seq.sp with
  | .op 0 => transceiveFirst slot s
  | .op (i + 1) => armWrite slot (i + 1) s
  | .firstChunk => firstChunk slot s
  | .startExchange => startExchange slot s
  | .streamEntry => streamEntry slot s
  | .nextChunk => nextChunk slot s
  | .streamBack => streamBack slot s
  | .pollCommand => pollCommand slot s
  | .pollStatus => pollStatus slot s
  | .pollFlags => pollFlags slot s
  | .testError => testError slot s
  | .testIrq => testIrq slot s
  | .timedOut => raiseTransceive .timeout s
  | .drainLength => drainLength slot s
  | .drainRead => drainRead slot s
  | .drainFlush => drainFlush slot s
  | .flushWrite => flushWrite slot s
  | .finish => succeed s

/-- TRANSCEIVE (R170). The link-layer toggle IMM8[0] changes no state and no transaction (R187). -/
def execTransceive (slot _imm8 : Byte) (s : State) : Host.Outcome State Fault Refusal :=
  .next (transceiveStep slot s)

end Sys2Proof.Machine
end

