-- ==== Sys2Proof/Machine/Dispatch.lean ====
section
/-! DEFINITION. exec: one step of SEQ in the running command, one arm per command (00_scope.md R12). -/

namespace Sys2Proof.Machine

def exec (i : Instr) (s : State) : Host.Outcome State Fault Refusal :=
  match i with
  | .resetInit slot => Sys2Proof.Machine.execResetInit slot s
  | .applyDefaults slot => Sys2Proof.Machine.execApplyDefaults slot s
  | .setSpeed slot rate => Sys2Proof.Machine.execSetSpeed slot rate s
  | .setRfMode slot => Sys2Proof.Machine.execSetRfMode slot s
  | .setRfPower slot imm8 => Sys2Proof.Machine.execSetRfPower slot imm8 s
  | .transceive slot imm8 => Sys2Proof.Machine.execTransceive slot imm8 s
  | .getError slot => Sys2Proof.Machine.execGetError slot s
  | .getCollPos slot => Sys2Proof.Machine.execGetCollPos slot s
  | .getSpeeds slot => Sys2Proof.Machine.execGetSpeeds slot s
  | .getCarrier slot => Sys2Proof.Machine.execGetCarrier slot s
  | .getMaxFrame slot => Sys2Proof.Machine.execGetMaxFrame slot s
  | .clearBits slot => Sys2Proof.Machine.execClearBits slot s
  | .setBits slot => Sys2Proof.Machine.execSetBits slot s
  | .setMasked slot => Sys2Proof.Machine.execSetMasked slot s
  | .applyTable slot => Sys2Proof.Machine.execApplyTable slot s
  | .deriveTimer slot => Sys2Proof.Machine.execDeriveTimer slot s
  | .armTimer slot => Sys2Proof.Machine.execArmTimer slot s

end Sys2Proof.Machine
end

