-- ==== Sys2Proof/Machine/HostBus.lean ====
section
/-! DEFINITION. The host bus (20_memory.md R60, R68 to R70), command issue and acceptance (30_encoding.md R101) and
block reset (70_reset_and_hazards.md R350). -/

namespace Sys2Proof.Machine

/-! ## Command issue -/

/-- Acceptance of the command word `w` (R101): CMD and LCMD take it, ARG0..2 are latched (10_state.md R37), STATUS
shows a running command, and SP is the first step. No transaction is issued. -/
def accept (w : Word) (s : State) : State :=
  { s with
    cmd := w
    status := s.status.accepted
    seq := { Seq.idle with lcmd := w, larg0 := s.arg0, larg1 := s.arg1, larg2 := s.arg2, sp := .op 0 } }

/-- A HOST write of `w` to CMD (R101): accepted where BUSY = 0; else ignored, and CMD_OVR is set (10_state.md R24). -/
def issue (w : Word) (s : State) : State :=
  if s.status.busy then { s with status := s.status.overrun } else accept w s

/-! ## The host map (R68) -/

def AccessSize.bytes : AccessSize → Nat
  | .one => 1
  | .two => 2
  | .four => 4

/-- The regions of R68: a 32-bit register by its offset, a reserved offset, TXBUF or RXBUF. -/
inductive HostRegion where
  | reg
  | reserved
  | txbuf
  | rxbuf
deriving DecidableEq, Repr

/-- The region of a host offset. The registers take up 0x000..0x01B, four bytes each (log 11). -/
def hostRegion (offset : BitVec 12) : HostRegion :=
  let a := offset.toNat
  if a < 0x01C then .reg
  else if inTxBuf a then .txbuf
  else if inRxBuf a then .rxbuf
  else .reserved

/-- Whether R70 accepts an access: naturally aligned, and four bytes where a register is addressed. An aligned
access crosses from no region into another. -/
def accessAllowed (offset : BitVec 12) (size : AccessSize) : Bool :=
  decide (offset.toNat % size.bytes = 0) && (hostRegion offset != .reg || size == .four)

/-- A register as HOST reads it (R68). -/
def readRegister (offset : BitVec 12) (s : State) : Word :=
  match offset.toNat with
  | 0x000 => s.cmd
  | 0x004 => s.status.toWord
  | 0x008 => s.ctrl.toWord
  | 0x00C => s.arg0
  | 0x010 => s.arg1
  | 0x014 => s.arg2
  | 0x018 => s.result
  | _ => 0

/-- A HOST write of `w` to a register (R68): CMD issues a command, STATUS clears W1C bits (10_state.md R26), RESULT
ignores it (R23). -/
def writeRegister (offset : BitVec 12) (w : Word) (s : State) : State :=
  match offset.toNat with
  | 0x000 => issue w s
  | 0x004 => { s with status := s.status.acknowledge w }
  | 0x008 => { s with ctrl := Ctrl.ofWord w }
  | 0x00C => { s with arg0 := w }
  | 0x010 => { s with arg1 := w }
  | 0x014 => { s with arg2 := w }
  | _ => s

/-- Whether RXBUF may be partly written: TRANSCEIVE's FifoRead has been answered and the command has not ended
(70_reset_and_hazards.md R361, R363). -/
def rxUnsettled (s : State) : Bool :=
  s.status.busy && (s.seq.sp == .drainFlush || s.seq.sp == .flushWrite || s.seq.sp == .finish)

/-- The byte HOST reads at a buffer offset; a free value of RXBUF while that may be partly written (log 14). -/
def hostByte (s : State) (a : Nat) : Byte :=
  if inRxBuf a && rxUnsettled s then Config.unsettledByte s.busOut.length a else s.bufByte a

/-- The data a host-bus read returns (R68, R69): little-endian, unused high bytes 0, reserved offsets 0. -/
def hostReadData (offset : BitVec 12) (size : AccessSize) (s : State) : Word :=
  match hostRegion offset with
  | .reg => readRegister offset s
  | .reserved => 0
  | .txbuf | .rxbuf => leWord ((List.range size.bytes).map fun i => hostByte s (offset.toNat + i))

/-- A host-bus read (R60, R70): its data goes to HOST, and it has no side effect. -/
def hostRead (offset : BitVec 12) (size : AccessSize) (s : State) : Host.Outcome State Fault Refusal :=
  if accessAllowed offset size then .next { s with busOut := hostReadData offset size s :: s.busOut }
  else .refused .hostAccess

/-- A host-bus write (R68 to R70). A write to TXBUF while BUSY = 1 races with SEQ (R362, log 10). -/
def hostWrite (offset : BitVec 12) (size : AccessSize) (data : Word) (s : State) :
    Host.Outcome State Fault Refusal :=
  if accessAllowed offset size then
    match hostRegion offset with
    | .reg => .next (writeRegister offset data s)
    | .reserved | .rxbuf => .next s
    | .txbuf =>
      if s.status.busy then .fault .txbufRace
      else .next { s with mem := s.mem.writeBytes offset.toNat (leBytes data size.bytes) }
  else .refused .hostAccess

/-! ## Block reset -/

/-- Block reset (R350, 10_state.md R42): the registers 0, the buffers unspecified, SEQ idle. A running command is
abandoned and no transaction is issued; the parameters (R352) and what stands at the ports stay. One turn stands for
assertion and release (log 18). -/
def blockReset (s : State) : State :=
  { State.reset with
    cfg := s.cfg
    hostIn := s.hostIn
    busOut := s.busOut
    envIn := s.envIn
    txns := s.txns
    txEpoch := s.txEpoch + 1
    rxEpoch := s.rxEpoch + 1
    trace := s.trace }

end Sys2Proof.Machine
end

