-- ==== Sys2Proof/Machine/Step.lean ====
section
/-! DEFINITION. One step of the machine: the next turn of HOST where one is due, else a step of SEQ. -/

namespace Sys2Proof.Machine

/-- A step of SEQ (00_scope.md R12): while BUSY = 1 a step of the running command, whose word is LCMD, or the error
ILLEGAL where Decode rejects that word (30_encoding.md R103); while BUSY = 0 SEQ waits (70_reset_and_hazards.md R351). -/
def seqStep (s : State) : Host.Outcome State Fault Refusal :=
  if s.status.busy then
    match decode s.seq.lcmd with
    | .ok i => exec i s
    | .error _ => .next (raiseIllegal s)
  else .next s

/-- One step. `hostIn` says who moves: HOST's accesses and resets are taken in bus order, each between two steps of
SEQ; `quiet` lets SEQ move first; past the list's end HOST does nothing (log 1). -/
def step (s : State) : Host.Outcome State Fault Refusal :=
  match s.hostIn with
  | [] => seqStep s
  | .quiet :: rest => seqStep { s with hostIn := rest }
  | .read offset size :: rest => hostRead offset size { s with hostIn := rest }
  | .write offset size data :: rest => hostWrite offset size data { s with hostIn := rest }
  | .reset :: rest => .next (blockReset { s with hostIn := rest })

/-- The state in which the very next step runs the command of the table word `w`: the block has no fetch, so this is
the state after HOST's write of that word to CMD was accepted (30_encoding.md R101, log 2), with SEQ to move. -/
def State.withFetchWord (s : State) (nbits w : Nat) : State :=
  { accept (BitVec.ofNat 32 (w % 2 ^ nbits)) s with
    hostIn := if s.hostIn = [] then [] else .quiet :: s.hostIn }

end Sys2Proof.Machine
end

