-- ==== Sys2Proof/Safety.lean ====
section
/-! DEFINITION. The terms the claims use: a command run to its end, what a command leaves alone, how it ends, and
the invariant of the machine. -/

namespace Sys2Proof.Safety

open Sys2Proof.Machine

/-- SEQ runs the command `i` from its present step on, at most `fuel` steps, until it ends (BUSY <- 0). -/
def runToEnd (i : Instr) : Nat → State → Option State
  | 0, _ => none
  | fuel + 1, s =>
    match exec i s with
    | .next t => if t.status.busy then runToEnd i fuel t else some t
    | .fault _ => none
    | .refused _ => none

/-- SEQ runs `n` steps of the command `i`. -/
def runSteps (i : Instr) : Nat → State → Option State
  | 0, s => some s
  | n + 1, s =>
    match exec i s with
    | .next t => runSteps i n t
    | .fault _ => none
    | .refused _ => none

/-- SEQ has just accepted a command (30_encoding.md R101): BUSY = 1 and SP is its first step. -/
def AtFirstStep (s : State) : Prop :=
  s.status.busy = true ∧ s.seq.sp = .op 0

/-- What SEQ never writes (10_state.md R22, R24, R32, R33, R40; 60_exceptions.md R316): the parameters, CMD, CTRL,
ARG0..2, CMD_OVR, and every byte of TXBUF; and what stands at the host's port. -/
def KeepsHostSide (s t : State) : Prop :=
  t.cfg = s.cfg ∧ t.cmd = s.cmd ∧ t.ctrl = s.ctrl ∧ t.arg0 = s.arg0 ∧ t.arg1 = s.arg1 ∧ t.arg2 = s.arg2 ∧
    t.status.cmdOvr = s.status.cmdOvr ∧ t.hostIn = s.hostIn ∧ t.busOut = s.busOut ∧
    ∀ a, inRxBuf a = false → t.bufByte a = s.bufByte a

/-- Every byte of memory reads as before. -/
def KeepsMemory (s t : State) : Prop :=
  ∀ a, t.bufByte a = s.bufByte a

/-- From `s` to `t` a command other than TRANSCEIVE ended without error (60_exceptions.md R311): RESULT is `r`, the
port saw `events` (newest first) and used ENV's answers up to `left`; nothing else HOST can see has changed. -/
def EndedOk (s t : State) (r : Word) (events : List PortEvent) (left : List Answer) : Prop :=
  t.result = r ∧ t.status = { s.status with busy := false, done := true } ∧ t.trace = events ++ s.trace ∧
    t.envIn = left ∧ KeepsHostSide s t ∧ KeepsMemory s t

/-- From `s` to `t` a command other than TRANSCEIVE ended with an error (60_exceptions.md R312). -/
def EndedInError (s t : State) (code : ErrCode) (r : Word) (events : List PortEvent) (left : List Answer) : Prop :=
  t.result = r ∧
    t.status = { s.status with busy := false, done := true, err := true, trunc := false, ecode := code } ∧
    t.trace = events ++ s.trace ∧ t.envIn = left ∧ KeepsHostSide s t ∧ KeepsMemory s t

/-- From `s` to `t` TRANSCEIVE ended with an error other than ILLEGAL (60_exceptions.md R312, 42_transceive.md R186):
as `EndedInError` with RESULT 0, and PHASE is ERROR and no byte of RXBUF has a specified value. -/
def TransceiveFailed (s t : State) (code : ErrCode) (events : List PortEvent) : Prop :=
  t.result = 0 ∧
    t.status = { s.status with
      busy := false, done := true, err := true, trunc := false, ecode := code, phase := .error } ∧
    t.trace = events ++ s.trace ∧ KeepsHostSide s t ∧ ∀ a, inRxBuf a = true → t.mem.read a = none

/-- The bytes stand in RXBUF in order, and no other byte of RXBUF has a specified value (10_state.md R34). -/
def HoldsAnswer (t : State) (bytes : List Byte) : Prop :=
  ∀ k, k < 256 → t.mem.read (0x200 + k) = bytes[k]?

/-- From `s` to `t` TRANSCEIVE ended without error (42_transceive.md R184, R185): RESULT is `n`, TRUNC says whether
the answer was cut, and PHASE is SUCCESS. What RXBUF holds then is said beside it. -/
def TransceiveSucceeded (s t : State) (n : Nat) (cut : Bool) (events : List PortEvent) : Prop :=
  t.result = BitVec.ofNat 32 n ∧
    t.status = { s.status with busy := false, done := true, trunc := cut, phase := .success } ∧
    t.trace = events ++ s.trace ∧ KeepsHostSide s t

/-- From `s` TRANSCEIVE ends a poll iteration with no event (42_transceive.md R182): polls counts it; the step yields
1,000 us and the next iteration follows where POLL_LIMIT is INF or not reached, else the command ends with POLL_LIMIT
and no yield. -/
def EndsIteration (slot imm8 : Byte) (s : State) : Prop :=
  ((∀ l, s.cfg.pollLimit = some l → s.seq.polls + 1 < l) →
    ∃ t, exec (.transceive slot imm8) s = .next t ∧ t.trace = .yield 1000 :: s.trace ∧ t.seq.sp = .pollCommand ∧
      t.seq.polls = s.seq.polls + 1 ∧ t.status = s.status ∧ t.txns = s.txns ∧ KeepsHostSide s t ∧ KeepsMemory s t) ∧
  (∀ l, s.cfg.pollLimit = some l → l ≤ s.seq.polls + 1 →
    ∃ t, exec (.transceive slot imm8) s = .next t ∧ TransceiveFailed s t .pollLimit [] ∧ t.txns = s.txns)

/-- The slot a port event carries; a wait carries none (20_memory.md R64). -/
def eventSlot : PortEvent → Option Byte
  | .regRead slot _ _ => some slot
  | .regWrite slot _ _ _ => some slot
  | .fifoRead slot _ _ => some slot
  | .fifoWrite slot _ _ => some slot
  | .hold _ => none
  | .yield _ => none

/-- The bytes a port event hands to the FIFO. -/
def fifoBytes : PortEvent → List Byte
  | .fifoWrite _ bytes _ => bytes
  | .regRead _ _ _ | .regWrite _ _ _ _ | .fifoRead _ _ _ | .hold _ | .yield _ => []

/-- How many bytes of TXBUF TRANSCEIVE has handed to the FIFO when SP is at a step of its streaming. tx_off takes in
the chunk just written only in the step after it. -/
def streamed (q : Seq) : Nat :=
  match q.sp with
  | .firstChunk => 0
  | .startExchange | .streamEntry => q.chunk
  | .streamBack => q.txOff + q.chunk
  | _ => q.txOff

/-- The mask and match of each row of the opcode map (30_encoding.md R111). -/
def maskRows : List (Word × Word) :=
  [(0xFFFF00FF, 0x01), (0xFFFF00FF, 0x02), (0xFF0000FF, 0x03), (0xFFFF00FF, 0x04), (0xFFFE00FF, 0x05),
   (0xFFFE00FF, 0x06), (0xFFFF00FF, 0x07), (0xFFFF00FF, 0x08), (0xFFFF00FF, 0x09), (0xFFFF00FF, 0x0A),
   (0xFFFF00FF, 0x0B), (0xFFFF00FF, 0x10), (0xFFFF00FF, 0x11), (0xFFFF00FF, 0x12), (0xFFFF00FF, 0x13),
   (0xFFFF00FF, 0x14), (0xFFFF00FF, 0x15)]

/-- One register procedure seen at the port (40_primitives.md R131 to R133), newest first: the read of `a` answered
`v`, and the write of `w` where there is one. -/
def updateEvents (slot a v : Byte) (w : Option Byte) : List PortEvent :=
  (match w with
    | none => []
    | some x => [.regWrite slot a x true]) ++ [.regRead slot a (some v)]

/-- The answers that procedure uses up: the byte read, and success for the write where there is one. -/
def updateAnswers (v : Byte) (w : Option Byte) : List Answer :=
  .ok [v] ::
    (match w with
      | none => []
      | some _ => [.ok []])

/-- The PHASE that shows while each step of TRANSCEIVE is next (42_transceive.md R188). A step that begins a state of
the exchange writes PHASE itself (00_scope.md R12), so before it the state it leaves still shows. -/
def phaseAt : Sp → Phase
  | .op _ | .firstChunk => .idle
  | .startExchange | .streamEntry | .nextChunk | .streamBack => .streaming
  | .pollCommand | .pollStatus | .pollFlags | .testError | .testIrq | .timedOut | .drainLength => .await
  | .drainRead | .drainFlush | .flushWrite | .finish => .drain

/-- SP is a step of the command in LCMD: only TRANSCEIVE has the loop steps. -/
def spFits (q : Seq) : Bool :=
  match q.sp, decode q.lcmd with
  | .op _, _ => true
  | _, .ok (.transceive _ _) => true
  | _, _ => false

/-- While a command runs (10_state.md R27, R28, R31, R37): the flags acceptance cleared stay clear, LCMD is CMD, SP is
a step of it, and PHASE is that step's. -/
def runningOk (s : State) : Bool :=
  !s.status.done && !s.status.err && !s.status.trunc && s.status.ecode == .none &&
    s.seq.lcmd == s.cmd && spFits s.seq && s.status.phase == phaseAt s.seq.sp

/-- While SEQ is idle PHASE shows no running exchange (10_state.md R31). -/
def idleOk (s : State) : Bool :=
  s.status.phase == .idle || s.status.phase == .success || s.status.phase == .error

/-- The invariant of the machine: the parameters are legal (00_scope.md R9), the buffers' cells are in canonical form
and inside the buffers, a set ERR has an error code, TRUNC shows only after a success, and the status fits what SEQ
is doing. -/
def BlockInv (s : State) : Bool :=
  s.cfg.wf && s.mem.wf && s.mem.inBuffers && (!s.status.err || s.status.ecode != .none) &&
    (!s.status.trunc || s.status.phase == .success) && (if s.status.busy then runningOk s else idleOk s)

end Sys2Proof.Safety
end

