-- ==== Sys2Proof/Certificates/Slice0/Obligations.lean ====
section
/-! DEFINITION. The statements for the provers. Each names the rules of spec/ it formalises. -/

open Sys2Proof Sys2Proof.Machine Sys2Proof.Safety

/-! ## Encoding -/

/-- 30_encoding.md R102, R103, R110: decoding the word of a well-formed command gives the command back. -/
def Obligations.DecodeOfEncodeGivesTheCommand : Prop :=
  ∀ i : Instr, i.WellFormed = true → decode (encode i) = .ok i

/-- R102, R103: an accepted word is the word of the command it decodes to, which is well formed. No accepted bit is
dropped. -/
def Obligations.EncodeOfDecodeGivesTheWord : Prop :=
  ∀ (w : Word) (i : Instr), decode w = .ok i → i.WellFormed = true ∧ encode i = w

/-- R111: what a decoder compares, row by row, with SLOT never part of the match; a word that matches no row is
illegal. -/
def Obligations.DecodeMatchesTheMaskTable : Prop :=
  ∀ w : Word,
    (decode w = .ok (.resetInit (slotOf w)) ↔ w &&& 0xFFFF00FF = 0x01) ∧
    (decode w = .ok (.applyDefaults (slotOf w)) ↔ w &&& 0xFFFF00FF = 0x02) ∧
    (decode w = .ok (.setSpeed (slotOf w) (immOf w)) ↔ w &&& 0xFF0000FF = 0x03) ∧
    (decode w = .ok (.setRfMode (slotOf w)) ↔ w &&& 0xFFFF00FF = 0x04) ∧
    (decode w = .ok (.setRfPower (slotOf w) (immOf w)) ↔ w &&& 0xFFFE00FF = 0x05) ∧
    (decode w = .ok (.transceive (slotOf w) (immOf w)) ↔ w &&& 0xFFFE00FF = 0x06) ∧
    (decode w = .ok (.getError (slotOf w)) ↔ w &&& 0xFFFF00FF = 0x07) ∧
    (decode w = .ok (.getCollPos (slotOf w)) ↔ w &&& 0xFFFF00FF = 0x08) ∧
    (decode w = .ok (.getSpeeds (slotOf w)) ↔ w &&& 0xFFFF00FF = 0x09) ∧
    (decode w = .ok (.getCarrier (slotOf w)) ↔ w &&& 0xFFFF00FF = 0x0A) ∧
    (decode w = .ok (.getMaxFrame (slotOf w)) ↔ w &&& 0xFFFF00FF = 0x0B) ∧
    (decode w = .ok (.clearBits (slotOf w)) ↔ w &&& 0xFFFF00FF = 0x10) ∧
    (decode w = .ok (.setBits (slotOf w)) ↔ w &&& 0xFFFF00FF = 0x11) ∧
    (decode w = .ok (.setMasked (slotOf w)) ↔ w &&& 0xFFFF00FF = 0x12) ∧
    (decode w = .ok (.applyTable (slotOf w)) ↔ w &&& 0xFFFF00FF = 0x13) ∧
    (decode w = .ok (.deriveTimer (slotOf w)) ↔ w &&& 0xFFFF00FF = 0x14) ∧
    (decode w = .ok (.armTimer (slotOf w)) ↔ w &&& 0xFFFF00FF = 0x15) ∧
    ((∃ e, decode w = .error e) ↔ ∀ row ∈ maskRows, w &&& row.1 ≠ row.2)

/-- 95_test_vectors.md section 2.1: words of the spec's own table and what they decode as. -/
def Obligations.SampleWordsDecodeAsTheSpecSays : Prop :=
  decode 0x00000301 = .ok (.resetInit 3) ∧ decode 0x00030203 = .ok (.setSpeed 2 3) ∧
    decode 0x00010005 = .ok (.setRfPower 0 1) ∧ decode 0x00010006 = .ok (.transceive 0 1) ∧
    decode 0x00000709 = .ok (.getSpeeds 7) ∧ decode 0x0000FF15 = .ok (.armTimer 255) ∧
    decode 0x00010001 = .error .immediateNotZero ∧ decode 0x01000001 = .error .reservedBits ∧
    decode 0x0000000C = .error .unknownOpcode ∧ decode 0x00020005 = .error .flagNotBoolean

/-- R103, R112, 60_exceptions.md R312: a word Decode rejects ends with ILLEGAL in SEQ's first step, with RESULT 0, no
transaction, and PHASE and the buffers as they were. -/
def Obligations.IllegalWordEndsWithIllegal : Prop :=
  ∀ (s : State) (e : DecodeError),
    s.hostIn = [] → s.status.busy = true → decode s.seq.lcmd = .error e →
    ∃ t, step s = .next t ∧ EndedInError s t .illegal 0 [] s.envIn ∧ t.txns = s.txns

/-! ## The step and the host's side -/

/-- 00_scope.md R12, 30_encoding.md R101: while BUSY = 1 and no host access is due, a step is a step of the command
that LCMD decodes to. -/
def Obligations.StepRunsTheDecodedCommand : Prop :=
  ∀ (s : State) (i : Instr), s.status.busy = true → decode s.seq.lcmd = .ok i →
    (s.hostIn = [] → step s = exec i s) ∧
    (∀ rest, s.hostIn = .quiet :: rest → step s = exec i { s with hostIn := rest })

/-- 30_encoding.md R101, 10_state.md R24, R28, R37: a HOST 4-byte write of w to CMD. While BUSY it only sets CMD_OVR;
else it is accepted, the operands are latched, STATUS shows a running command and nothing else changes; the state is
then at the command's first step (`AtFirstStep`). -/
def Obligations.CmdWriteIsAcceptedOrSetsOverrun : Prop :=
  ∀ (s : State) (w : Word) (rest : List HostTurn), s.hostIn = .write 0x000 .four w :: rest →
    (s.status.busy = true →
      step s = .next { s with hostIn := rest, status := { s.status with cmdOvr := true } }) ∧
    (s.status.busy = false →
      ∃ q, step s = .next { s with
          hostIn := rest
          cmd := w
          status := { s.status with
            busy := true, done := false, err := false, trunc := false, ecode := .none, phase := .idle }
          seq := q } ∧
        q.lcmd = w ∧ q.larg0 = s.arg0 ∧ q.larg1 = s.arg1 ∧ q.larg2 = s.arg2 ∧ q.sp = .op 0)

/-- 20_memory.md R68, R70, 10_state.md R25, R31, 60_exceptions.md R310: what a read of each register returns, STATUS
with the bit places of R25, the error codes of R310 and the states of R31; nothing else changes. -/
def Obligations.RegisterReadsReturnTheRegisters : Prop :=
  ∀ (s : State) (rest : List HostTurn) (o : BitVec 12), s.hostIn = .read o .four :: rest →
    (o = 0x000 → step s = .next { s with hostIn := rest, busOut := s.cmd :: s.busOut }) ∧
    (o = 0x004 → ∃ w, step s = .next { s with hostIn := rest, busOut := w :: s.busOut } ∧
      w.getLsbD 0 = s.status.busy ∧ w.getLsbD 1 = s.status.done ∧ w.getLsbD 2 = s.status.err ∧
      w.getLsbD 3 = s.status.trunc ∧ w.getLsbD 4 = s.status.cmdOvr ∧ w.extractLsb' 5 3 = 0 ∧
      (s.status.ecode, w.extractLsb' 8 4) ∈
        [(ErrCode.none, 0#4), (.transport, 1), (.timeout, 2), (.link, 3), (.empty, 4), (.config, 5),
         (.timerRange, 6), (.crc, 7), (.illegal, 8), (.pollLimit, 9)] ∧
      (s.status.phase, w.extractLsb' 12 3) ∈
        [(Phase.idle, 0#3), (.armed, 1), (.streaming, 2), (.await, 3), (.drain, 4), (.success, 5), (.error, 6)] ∧
      w.extractLsb' 15 17 = 0) ∧
    (o = 0x008 → ∃ w, step s = .next { s with hostIn := rest, busOut := w :: s.busOut } ∧
      w.getLsbD 0 = s.ctrl.crcAbort ∧ w.getLsbD 1 = s.ctrl.surplusFlush ∧ w.getLsbD 2 = s.ctrl.irqEn ∧
      w.extractLsb' 3 29 = 0) ∧
    (o = 0x00C → step s = .next { s with hostIn := rest, busOut := s.arg0 :: s.busOut }) ∧
    (o = 0x010 → step s = .next { s with hostIn := rest, busOut := s.arg1 :: s.busOut }) ∧
    (o = 0x014 → step s = .next { s with hostIn := rest, busOut := s.arg2 :: s.busOut }) ∧
    (o = 0x018 → step s = .next { s with hostIn := rest, busOut := s.result :: s.busOut })

/-- 10_state.md R26: a HOST write of v to STATUS clears DONE, ERR and CMD_OVR where v has their bit set, and nothing
else; a read of STATUS changes nothing. -/
def Obligations.StatusWriteClearsOnlyWhatItNames : Prop :=
  (∀ (s : State) (v : Word) (rest : List HostTurn), s.hostIn = .write 0x004 .four v :: rest →
    step s = .next { s with
      hostIn := rest
      status := { s.status with
        done := if v.getLsbD 1 then false else s.status.done
        err := if v.getLsbD 2 then false else s.status.err
        cmdOvr := if v.getLsbD 4 then false else s.status.cmdOvr } }) ∧
  (∀ (s : State) (rest : List HostTurn), s.hostIn = .read 0x004 .four :: rest →
    ∃ w, step s = .next { s with hostIn := rest, busOut := w :: s.busOut })

/-- 20_memory.md R68, 10_state.md R22, R23, R32, R34: writes to CTRL and ARG0..2 take effect at any time; writes to
RESULT, to reserved offsets and to RXBUF change nothing. -/
def Obligations.RegisterWritesTakeEffectOrAreIgnored : Prop :=
  ∀ (s : State) (o : BitVec 12) (size : AccessSize) (v : Word) (rest : List HostTurn),
    s.hostIn = .write o size v :: rest →
    (o = 0x008 → size = .four → step s = .next { s with
      hostIn := rest
      ctrl := ⟨v.getLsbD 0, v.getLsbD 1, v.getLsbD 2⟩ }) ∧
    (o = 0x00C → size = .four → step s = .next { s with hostIn := rest, arg0 := v }) ∧
    (o = 0x010 → size = .four → step s = .next { s with hostIn := rest, arg1 := v }) ∧
    (o = 0x014 → size = .four → step s = .next { s with hostIn := rest, arg2 := v }) ∧
    (o = 0x018 → size = .four → step s = .next { s with hostIn := rest }) ∧
    (0x01C ≤ o.toNat → o.toNat < 0x100 ∨ 0x200 ≤ o.toNat → o.toNat % size.bytes = 0 →
      step s = .next { s with hostIn := rest })

/-- 20_memory.md R70 and 70_reset_and_hazards.md R362: an access that is misaligned, or narrower than a register, is
refused; every other read answers, and so does every other write but one to TXBUF while BUSY, which is a race. -/
def Obligations.HostBusAnswersExactlyTheLegalAccesses : Prop :=
  ∀ (s : State) (o : BitVec 12) (size : AccessSize) (v : Word),
    (o.toNat % size.bytes ≠ 0 ∨ (o.toNat < 0x01C ∧ size ≠ .four) →
      hostRead o size s = .refused .hostAccess ∧ hostWrite o size v s = .refused .hostAccess) ∧
    (o.toNat % size.bytes = 0 → (o.toNat < 0x01C → size = .four) →
      (∃ t, hostRead o size s = .next t) ∧
      (0x100 ≤ o.toNat → o.toNat < 0x200 → s.status.busy = true →
        hostWrite o size v s = .fault .txbufRace) ∧
      (o.toNat < 0x100 ∨ 0x200 ≤ o.toNat ∨ s.status.busy = false → ∃ t, hostWrite o size v s = .next t))

/-- 20_memory.md R69, 10_state.md R33: a legal write to TXBUF while BUSY = 0 stores its bytes little-endian at the
offset it names and changes nothing else; reading it back with the same width gives those bits. -/
def Obligations.TxbufWriteReadsBackLittleEndian : Prop :=
  ∀ (s : State) (o : BitVec 12) (size : AccessSize) (v : Word),
    0x100 ≤ o.toNat → o.toNat < 0x200 → o.toNat % size.bytes = 0 → s.status.busy = false →
    ∃ m, hostWrite o size v s = .next { s with mem := m } ∧
      (∀ i, i < size.bytes → State.bufByte { s with mem := m } (o.toNat + i) = v.extractLsb' (8 * i) 8) ∧
      (∀ a, a < o.toNat ∨ o.toNat + size.bytes ≤ a → State.bufByte { s with mem := m } a = s.bufByte a) ∧
      hostReadData o size { s with mem := m } = (v.setWidth (8 * size.bytes)).setWidth 32

/-- 10_state.md R42, 70_reset_and_hazards.md R350, R352: block reset at any moment, a running command included. The
registers read 0, IRQ_OUT is 0, no buffer byte has a specified value, SEQ is idle, and no transaction is issued; the
parameters stay. The same values hold in the model's reset state. -/
def Obligations.BlockResetLeavesTheResetValues : Prop :=
  (∀ (s : State) (rest : List HostTurn), s.hostIn = .reset :: rest →
    ∃ t, step s = .next t ∧ t.cmd = 0 ∧ t.status.toWord = 0 ∧ t.ctrl.toWord = 0 ∧ t.arg0 = 0 ∧ t.arg1 = 0 ∧
      t.arg2 = 0 ∧ t.result = 0 ∧ t.irqOut = false ∧ (∀ a, t.mem.read a = none) ∧ t.trace = s.trace ∧
      t.cfg = s.cfg ∧ t.hostIn = rest) ∧
  State.reset.cmd = 0 ∧ State.reset.status.toWord = 0 ∧ State.reset.ctrl.toWord = 0 ∧ State.reset.arg0 = 0 ∧
    State.reset.arg1 = 0 ∧ State.reset.arg2 = 0 ∧ State.reset.result = 0 ∧ State.reset.irqOut = false ∧
    ∀ a, State.reset.mem.read a = none

/-- 60_exceptions.md R320: IRQ_OUT is CTRL.IRQ_EN AND STATUS.DONE, so when a command ends, with or without error, it is
CTRL.IRQ_EN; a HOST write of 1 to DONE and the acceptance of the next command each clear it. -/
def Obligations.IrqOutRisesAtTheEndAndIsCleared : Prop :=
  (∀ s : State, s.irqOut = (s.ctrl.irqEn && s.status.done)) ∧ State.reset.ctrl.irqEn = false ∧
  (∀ (i : Instr) (s t : State), exec i s = .next t → s.status.busy = true → t.status.busy = false →
    t.irqOut = s.ctrl.irqEn) ∧
  (∀ (s : State) (v : Word) (rest : List HostTurn), s.hostIn = .write 0x004 .four v :: rest →
    v.getLsbD 1 = true → ∃ t, step s = .next t ∧ t.irqOut = false) ∧
  (∀ (s : State) (w : Word) (rest : List HostTurn), s.hostIn = .write 0x000 .four w :: rest →
    s.status.busy = false → ∃ t, step s = .next t ∧ t.irqOut = false)

/-- 10_state.md R27, 70_reset_and_hazards.md R351: while BUSY = 0 SEQ waits: with no host access due nothing changes. -/
def Obligations.SeqWaitsWhileIdle : Prop :=
  ∀ s : State, s.status.busy = false → s.hostIn = [] → step s = .next s

/-- 10_state.md R37: a running command reads its operands from the latched copies, so other values in ARG0..2 change
nothing it does. -/
def Obligations.ArgWritesDoNotReachARunningCommand : Prop :=
  ∀ (i : Instr) (s t : State) (a0 a1 a2 : Word), exec i s = .next t →
    exec i { s with arg0 := a0, arg1 := a1, arg2 := a2 } = .next { t with arg0 := a0, arg1 := a1, arg2 := a2 }

/-! ## The machine as a whole -/

/-- R9, R25, R27, R28, R31, R37, R188, R310: every step from a state that meets the invariant, whoever moves, gives a
state that meets it. -/
def Obligations.EveryStepKeepsTheInvariant : Prop :=
  ∀ s t : State, BlockInv s = true → step s = .next t → BlockInv t = true

/-- The model's reset state meets the invariant, whatever the two free tables of its parameters hold (logs 8, 9). -/
def Obligations.ResetStateMeetsTheInvariant : Prop :=
  BlockInv State.reset = true

/-- 10_state.md R40: no step of anyone writes the parameters. -/
def Obligations.NoStepChangesTheParameters : Prop :=
  ∀ s t : State, step s = .next t → t.cfg = s.cfg

/-- Every command answers a next state in every state: no command stops the machine. -/
def Obligations.EveryCommandStepAnswers : Prop :=
  ∀ (i : Instr) (s : State), ∃ t, exec i s = .next t

/-- The frame of all commands (10_state.md R22, R24, R32, R33): a step of SEQ writes none of CMD, CTRL, ARG0..2,
CMD_OVR and the parameters, and no byte outside RXBUF; it takes nothing from the host's port. -/
def Obligations.CommandStepsKeepTheHostSide : Prop :=
  ∀ (i : Instr) (s t : State), exec i s = .next t → KeepsHostSide s t

/-- 10_state.md R34: only TRANSCEIVE writes RXBUF; a step of any other command leaves every byte of memory, and it
leaves PHASE. -/
def Obligations.OnlyTransceiveWritesRxbufAndPhase : Prop :=
  ∀ (i : Instr) (s t : State), (∀ slot x, i ≠ .transceive slot x) → exec i s = .next t →
    KeepsMemory s t ∧ t.status.phase = s.status.phase

/-- 10_state.md R23, R28, R30, R37: while a command goes on RESULT, DONE, ERR, TRUNC, ECODE, the latched command and
the latched operands stay. -/
def Obligations.RunningCommandKeepsResultFlagsAndLatches : Prop :=
  ∀ (i : Instr) (s t : State), exec i s = .next t → s.status.busy = true → t.status.busy = true →
    t.result = s.result ∧ t.status = { s.status with phase := t.status.phase } ∧ t.seq.lcmd = s.seq.lcmd ∧
      t.seq.larg0 = s.seq.larg0 ∧ t.seq.larg1 = s.seq.larg1 ∧ t.seq.larg2 = s.seq.larg2

/-- 10_state.md R27, R28, 60_exceptions.md R311, R312: the step that ends a command sets DONE; it leaves ERR and ECODE
as they are, or sets ERR with an error code and clears TRUNC. -/
def Obligations.CommandEndSetsDoneAndShowsAnyError : Prop :=
  ∀ (i : Instr) (s t : State), exec i s = .next t → s.status.busy = true → t.status.busy = false →
    t.status.done = true ∧
    ((t.status.err = s.status.err ∧ t.status.ecode = s.status.ecode) ∨
      (t.status.err = true ∧ t.status.ecode ≠ .none ∧ t.status.trunc = false))

/-- 00_scope.md R12, 20_memory.md R64, R65, R75: a step of SEQ does at most one thing at the port: nothing, one wait,
or one transaction, which uses up one answer and carries the command's SLOT. -/
def Obligations.OneTransactionAStepWithTheCommandsSlot : Prop :=
  ∀ (i : Instr) (s t : State), exec i s = .next t →
    (t.trace = s.trace ∧ t.txns = s.txns ∧ t.envIn = s.envIn) ∨
    (∃ ev, t.trace = ev :: s.trace ∧ eventSlot ev = none ∧ t.txns = s.txns ∧ t.envIn = s.envIn) ∨
    (∃ ev, t.trace = ev :: s.trace ∧ eventSlot ev = some i.slot ∧ t.txns = s.txns + 1 ∧
      t.envIn = s.envIn.tail)

/-- 20_memory.md R66, 40_primitives.md R130, 60_exceptions.md R312, R319: a step whose transaction ENV answers with failure
ends the command with TRANSPORT at once; RESULT is 0 in every command but the two that run table operations, APPLY_TABLE
and APPLY_DEFAULTS, whose RESULT is in TableCommandsReportWhereTheyFailed. That the command ends in the step of the
failed transaction is the model's reading (log 5). -/
def Obligations.FailedTransactionEndsTheCommand : Prop :=
  ∀ (i : Instr) (s t : State), s.nextAnswer = .fail → exec i s = .next t → t.txns = s.txns + 1 →
    t.status = { s.status with
      busy := false, done := true, err := true, trunc := false, ecode := .transport, phase := t.status.phase } ∧
      ((∀ slot, i ≠ .applyTable slot ∧ i ≠ .applyDefaults slot) → t.result = 0)

/-! ## Register primitives -/

/-- 40_primitives.md R131, R135: CLEAR_BITS from its first step to its end: one read, a write only where a mask bit is
set, RESULT 0. -/
def Obligations.ClearBitsReadsAndWritesOnlyWhenNeeded : Prop :=
  ∀ (slot : Byte) (s : State) (v : Byte) (w : Option Byte) (rest : List Answer), AtFirstStep s →
    w = (if v &&& s.seq.larg0.extractLsb' 8 8 = 0 then none else some (v &&& ~~~(s.seq.larg0.extractLsb' 8 8))) →
    s.envIn = updateAnswers v w ++ rest →
    ∃ t1 t, exec (.clearBits slot) s = .next t1 ∧
      t1.trace = .regRead slot (s.seq.larg0.extractLsb' 0 8) (some v) :: s.trace ∧
      runToEnd (.clearBits slot) 2 t1 = some t ∧
      EndedOk s t 0 (updateEvents slot (s.seq.larg0.extractLsb' 0 8) v w) rest

/-- 40_primitives.md R132, R136: SET_BITS from its first step to its end. -/
def Obligations.SetBitsReadsAndWritesOnlyWhenNeeded : Prop :=
  ∀ (slot : Byte) (s : State) (v : Byte) (w : Option Byte) (rest : List Answer), AtFirstStep s →
    w = (if v &&& s.seq.larg0.extractLsb' 8 8 = s.seq.larg0.extractLsb' 8 8 then none
      else some (v ||| s.seq.larg0.extractLsb' 8 8)) →
    s.envIn = updateAnswers v w ++ rest →
    ∃ t1 t, exec (.setBits slot) s = .next t1 ∧
      t1.trace = .regRead slot (s.seq.larg0.extractLsb' 0 8) (some v) :: s.trace ∧
      runToEnd (.setBits slot) 2 t1 = some t ∧
      EndedOk s t 0 (updateEvents slot (s.seq.larg0.extractLsb' 0 8) v w) rest

/-- 40_primitives.md R133, R137: SET_MASKED from its first step to its end; the comparison uses the bits unmasked. -/
def Obligations.SetMaskedReplacesTheField : Prop :=
  ∀ (slot : Byte) (s : State) (v m b : Byte) (w : Option Byte) (rest : List Answer), AtFirstStep s →
    m = s.seq.larg0.extractLsb' 8 8 → b = s.seq.larg0.extractLsb' 16 8 →
    w = (if v &&& m = b then none else some ((v &&& ~~~m) ||| (b &&& m))) →
    s.envIn = updateAnswers v w ++ rest →
    ∃ t1 t, exec (.setMasked slot) s = .next t1 ∧
      t1.trace = .regRead slot (s.seq.larg0.extractLsb' 0 8) (some v) :: s.trace ∧
      runToEnd (.setMasked slot) 2 t1 = some t ∧
      EndedOk s t 0 (updateEvents slot (s.seq.larg0.extractLsb' 0 8) v w) rest

/-- 40_primitives.md R139: clear_bits and set_bits over a register that holds what the first call left write nothing
the second time; nor does set_masked where its bits lie inside its mask. -/
def Obligations.PrimitivesAreIdempotent : Prop :=
  (∀ v m : Byte, clearedValue ((clearedValue v m).getD v) m = none) ∧
  (∀ v m : Byte, setValue ((setValue v m).getD v) m = none) ∧
  (∀ v m b : Byte, b &&& ~~~m = 0 → maskedValue ((maskedValue v m b).getD v) m b = none)

/-- 40_primitives.md R134, R138: APPLY_TABLE with every write answered ok writes the entries in TXBUF in order, one
transaction each, and RESULT is their number. -/
def Obligations.ApplyTableWritesItsEntriesInOrder : Prop :=
  ∀ (slot : Byte) (s : State) (n : Nat) (rest : List Answer), AtFirstStep s →
    n = (s.seq.larg0.extractLsb' 0 16).toNat → n ≤ s.cfg.txMax / 2 →
    s.envIn = List.replicate n (.ok []) ++ rest →
    ∃ t1 t, exec (.applyTable slot) s = .next t1 ∧ runToEnd (.applyTable slot) (n + 1) s = some t ∧
      EndedOk s t (BitVec.ofNat 32 n)
        ((List.range n).map fun k =>
          .regWrite slot (s.bufByte (0x100 + 2 * k)) (s.bufByte (0x100 + (2 * k + 1))) true).reverse rest

/-- 40_primitives.md R134, R138, 43_link_config.md R221, 60_exceptions.md R312: a failed write of table entry k ends
APPLY_TABLE and APPLY_DEFAULTS with TRANSPORT and RESULT k; a failed flush ends APPLY_DEFAULTS with RESULT 0xFFFF. Where
the flush finds FLUSH_FIFO set, the step after its read issues the table's first write (40_primitives.md R132, R140).
That the command ends in the step of the failed transaction is the model's reading (log 5). -/
def Obligations.TableCommandsReportWhereTheyFailed : Prop :=
  ∀ (slot : Byte) (s : State), s.nextAnswer = .fail →
    (∀ k a v, (s.seq.sp = .op 0 ∧ k = 0) ∨ (s.seq.sp = .op 1 ∧ k = s.seq.k + 1) →
      k < (s.seq.larg0.extractLsb' 0 16).toNat →
      (s.seq.larg0.extractLsb' 0 16).toNat ≤ s.cfg.txMax / 2 →
      a = s.bufByte (0x100 + 2 * k) → v = s.bufByte (0x100 + (2 * k + 1)) →
      ∃ t, exec (.applyTable slot) s = .next t ∧
        EndedInError s t .transport (BitVec.ofNat 32 k) [.regWrite slot a v false] s.envIn.tail) ∧
    (∀ k e, (s.seq.sp = .op 2 ∧ k = 0) ∨
        (s.seq.sp = .op 1 ∧ s.seq.v &&& s.cfg.regs.flushFifo = s.cfg.regs.flushFifo ∧ k = 0) ∨
        (s.seq.sp = .op 3 ∧ k = s.seq.k + 1) →
      s.cfg.defaults[k]? = some e →
      ∃ t, exec (.applyDefaults slot) s = .next t ∧
        EndedInError s t .transport (BitVec.ofNat 32 k) [.regWrite slot e.1 e.2 false] s.envIn.tail) ∧
    (s.seq.sp = .op 0 → ∃ t, exec (.applyDefaults slot) s = .next t ∧
      EndedInError s t .transport 0xFFFF [.regRead slot s.cfg.regs.control none] s.envIn.tail) ∧
    (s.seq.sp = .op 1 → s.seq.v &&& s.cfg.regs.flushFifo ≠ s.cfg.regs.flushFifo →
      ∃ t, exec (.applyDefaults slot) s = .next t ∧
        EndedInError s t .transport 0xFFFF
          [.regWrite slot s.cfg.regs.control (s.seq.v ||| s.cfg.regs.flushFifo) false] s.envIn.tail)

/-- 43_link_config.md R223, R224, 40_primitives.md R138: SET_SPEED with a rate index of 4 or more, and APPLY_TABLE with
a count above TX_MAX/2, end with CONFIG, RESULT 0 and no transaction. -/
def Obligations.OutOfRangeOperandsEndWithConfig : Prop :=
  ∀ (slot rate : Byte) (s : State),
    (4 ≤ rate.toNat → ∃ t, exec (.setSpeed slot rate) s = .next t ∧
      EndedInError s t .config 0 [] s.envIn ∧ t.txns = s.txns) ∧
    (s.cfg.txMax / 2 < (s.seq.larg0.extractLsb' 0 16).toNat → ∃ t, exec (.applyTable slot) s = .next t ∧
      EndedInError s t .config 0 [] s.envIn ∧ t.txns = s.txns)

/-! ## Timing -/

/-- 41_timing.md R152: derive_timer(T) has a candidate if and only if T <= 999,999. -/
def Obligations.TimerPairExistsExactlyBelowOneSecond : Prop :=
  ∀ T : Nat, (∃ pair, deriveTimer T = some pair) ↔ T ≤ 999999

/-- 41_timing.md R151, R156: the derived pair is a candidate of R151, no candidate has a smaller overshoot, and none
with the same overshoot has a smaller prescaler. -/
def Obligations.DerivedTimerPairHasTheLeastOvershoot : Prop :=
  ∀ (T : Nat) (p d : Byte), deriveTimer T = some (p, d) →
    p.toNat ≤ 20 ∧ d.toNat = 13560000 / 2 ^ p.toNat * T / 1000000 + 1 ∧ d.toNat ≤ 255 ∧
    d.toNat ≤ 13560000 / 2 ^ p.toNat ∧ T ≤ 1000000 / (13560000 / 2 ^ p.toNat / d.toNat) ∧
    ∀ i e, i ≤ 20 → e = 13560000 / 2 ^ i * T / 1000000 + 1 → e ≤ 255 → e ≤ 13560000 / 2 ^ i →
      T ≤ 1000000 / (13560000 / 2 ^ i / e) →
      1000000 / (13560000 / 2 ^ p.toNat / d.toNat) ≤ 1000000 / (13560000 / 2 ^ i / e) ∧
      (1000000 / (13560000 / 2 ^ p.toNat / d.toNat) = 1000000 / (13560000 / 2 ^ i / e) → p.toNat ≤ i)

/-- 41_timing.md R154, R152: DERIVE_TIMER is one step with no transaction: RESULT is the pair where the timeout is at
most 999,999, else TIMER_RANGE. -/
def Obligations.DeriveTimerReturnsThePairOrTimerRange : Prop :=
  ∀ (slot : Byte) (s : State),
    (s.seq.larg2.toNat ≤ 999999 → ∃ p d t, deriveTimer s.seq.larg2.toNat = some (p, d) ∧
      exec (.deriveTimer slot) s = .next t ∧
      EndedOk s t ((d.setWidth 32 <<< 8) ||| p.setWidth 32) [] s.envIn) ∧
    (999999 < s.seq.larg2.toNat → ∃ t, exec (.deriveTimer slot) s = .next t ∧
      EndedInError s t .timerRange 0 [] s.envIn)

/-- 41_timing.md R153, R155: ARM_TIMER writes the five timer registers in order and RESULT is the pair; a timeout with
no pair ends with TIMER_RANGE and no write. -/
def Obligations.ArmTimerWritesFiveRegistersInOrder : Prop :=
  ∀ (slot : Byte) (s : State), AtFirstStep s →
    (∀ p d rest, deriveTimer s.seq.larg2.toNat = some (p, d) → s.envIn = List.replicate 5 (.ok []) ++ rest →
      ∃ t1 t, exec (.armTimer slot) s = .next t1 ∧
        t1.trace = .regWrite slot s.cfg.regs.timerClock p true :: s.trace ∧
        runToEnd (.armTimer slot) 5 t1 = some t ∧
        EndedOk s t ((d.setWidth 32 <<< 8) ||| p.setWidth 32)
          [.regWrite slot s.cfg.regs.timerReload d true,
           .regWrite slot s.cfg.regs.interruptEn (s.cfg.regs.irqSet ||| s.cfg.regs.irqTimer) true,
           .regWrite slot s.cfg.regs.interruptRq s.cfg.regs.irqTimer true,
           .regWrite slot s.cfg.regs.timerControl s.cfg.regs.tmrMode true,
           .regWrite slot s.cfg.regs.timerClock p true] rest) ∧
    (999999 < s.seq.larg2.toNat → ∃ t, exec (.armTimer slot) s = .next t ∧
      EndedInError s t .timerRange 0 [] s.envIn)

/-! ## Link configuration -/

/-- 43_link_config.md R221: APPLY_DEFAULTS flushes the FIFO where FLUSH_FIFO is not set already, then writes
DEFAULTS_TABLE in order; RESULT is the number of entries. -/
def Obligations.ApplyDefaultsFlushesThenWritesTheTable : Prop :=
  ∀ (slot : Byte) (s : State) (v : Byte) (w : Option Byte) (rest : List Answer), AtFirstStep s →
    w = (if v &&& s.cfg.regs.flushFifo = s.cfg.regs.flushFifo then none else some (v ||| s.cfg.regs.flushFifo)) →
    s.envIn = updateAnswers v w ++ List.replicate s.cfg.defaults.length (.ok []) ++ rest →
    ∃ t1 t, exec (.applyDefaults slot) s = .next t1 ∧
      t1.trace = .regRead slot s.cfg.regs.control (some v) :: s.trace ∧
      runToEnd (.applyDefaults slot) (s.cfg.defaults.length + 2) t1 = some t ∧
      EndedOk s t (BitVec.ofNat 32 s.cfg.defaults.length)
        ((s.cfg.defaults.map fun e => .regWrite slot e.1 e.2 true).reverse ++
          updateEvents slot s.cfg.regs.control v w) rest

/-- 43_link_config.md R223: SET_SPEED with a rate index of 0..3 makes the masked updates of the profile in order, the
BPSK one only for a BPSK profile, whatever each register reads; RESULT 0. -/
def Obligations.SetSpeedAppliesTheProfile : Prop :=
  ∀ (slot rate : Byte) (s : State) (P : Profile) (v1 v2 v3 v4 v5 v6 : Byte) (rest : List Answer), AtFirstStep s →
    [s.cfg.profiles.r106k, s.cfg.profiles.r212k, s.cfg.profiles.r424k, s.cfg.profiles.r848k][rate.toNat]? = some P →
    s.envIn =
      updateAnswers v1 (maskedValue v1 s.cfg.regs.subcpMask P.subcp) ++
      updateAnswers v2 (maskedValue v2 s.cfg.regs.codingMask P.coding) ++
      updateAnswers v3 (maskedValue v3 0xFF P.threshold) ++
      (if P.coding = s.cfg.regs.codingBpsk then updateAnswers v4 (maskedValue v4 0xFF P.bpskdem) else []) ++
      updateAnswers v5 (maskedValue v5 s.cfg.regs.coderrateMask P.coderrate) ++
      updateAnswers v6 (maskedValue v6 0xFF P.modwidth) ++ rest →
    ∃ t1 t, exec (.setSpeed slot rate) s = .next t1 ∧
      t1.trace = .regRead slot s.cfg.regs.rxControl1 (some v1) :: s.trace ∧
      runToEnd (.setSpeed slot rate) 12 t1 = some t ∧
      EndedOk s t 0
        (updateEvents slot s.cfg.regs.modWidth v6 (maskedValue v6 0xFF P.modwidth) ++
         updateEvents slot s.cfg.regs.coderControl v5 (maskedValue v5 s.cfg.regs.coderrateMask P.coderrate) ++
         (if P.coding = s.cfg.regs.codingBpsk then
           updateEvents slot s.cfg.regs.bpskDemControl v4 (maskedValue v4 0xFF P.bpskdem) else []) ++
         updateEvents slot s.cfg.regs.rxThreshold v3 (maskedValue v3 0xFF P.threshold) ++
         updateEvents slot s.cfg.regs.decoderControl v2 (maskedValue v2 s.cfg.regs.codingMask P.coding) ++
         updateEvents slot s.cfg.regs.rxControl1 v1 (maskedValue v1 s.cfg.regs.subcpMask P.subcp)) rest

/-- 43_link_config.md R226, R227: SET_RF_MODE writes the bit framing whole, sets or clears CRYPTO1 where it must
change, and writes the channel-redundancy byte in one write; RESULT 0. -/
def Obligations.SetRfModeProgramsFramingCryptoAndRedundancy : Prop :=
  ∀ (slot : Byte) (s : State) (m : Word) (v : Byte) (w : Option Byte) (rest : List Answer), AtFirstStep s →
    m = s.seq.larg0 →
    w = (if m.getLsbD 8 then setValue v s.cfg.regs.crypto1On else clearedValue v s.cfg.regs.crypto1On) →
    s.envIn = .ok [] :: updateAnswers v w ++ .ok [] :: rest →
    ∃ t1 t, exec (.setRfMode slot) s = .next t1 ∧
      t1.trace = .regWrite slot s.cfg.regs.bitFraming
        (((m.extractLsb' 4 3).setWidth 8 <<< s.cfg.regs.rxalignShift) ||| (m.extractLsb' 0 3).setWidth 8)
        true :: s.trace ∧
      runToEnd (.setRfMode slot) 4 t1 = some t ∧
      EndedOk s t 0
        (.regWrite slot s.cfg.regs.channelRedundancy
          ((if m.getLsbD 11 then s.cfg.regs.crParityEn else 0) ||| (if m.getLsbD 12 then s.cfg.regs.crParityOdd else 0) |||
            (if m.getLsbD 9 then s.cfg.regs.crTxCrc else 0) ||| (if m.getLsbD 10 then s.cfg.regs.crRxCrc else 0)) true ::
         updateEvents slot s.cfg.regs.control v w ++
         [.regWrite slot s.cfg.regs.bitFraming
           (((m.extractLsb' 4 3).setWidth 8 <<< s.cfg.regs.rxalignShift) ||| (m.extractLsb' 0 3).setWidth 8) true]) rest

/-- 43_link_config.md R228, R229, R230: GET_ERROR and GET_COLL_POS read one register, and RESULT is the byte read,
uninterpreted; a failed read ends them with TRANSPORT and RESULT 0, in the step of that read, which is the model's
reading (log 5). -/
def Obligations.DiagnosticReadsReturnTheRawByte : Prop :=
  ∀ (slot : Byte) (s : State) (i : Instr) (a : Byte), AtFirstStep s →
    (i = .getError slot ∧ a = s.cfg.regs.errorFlag) ∨ (i = .getCollPos slot ∧ a = s.cfg.regs.collPos) →
    (∀ v rest, s.envIn = .ok [v] :: rest →
      ∃ t1 t, exec i s = .next t1 ∧ t1.status.busy = true ∧ exec i t1 = .next t ∧
        EndedOk s t (v.setWidth 32) [.regRead slot a (some v)] rest) ∧
    (∀ rest, s.envIn = .fail :: rest →
      ∃ t, exec i s = .next t ∧ EndedInError s t .transport 0 [.regRead slot a none] rest)

/-! ## Lifecycle and constants -/

/-- 44_lifecycle.md R260: RESET_INIT from its first step to its end, whatever CONTROL and TX_CONTROL read: the eight
steps in order with both holds; RESULT 0. -/
def Obligations.ResetInitRunsTheBringUpSequence : Prop :=
  ∀ (slot : Byte) (s : State) (v1 v3 v6 v8 : Byte) (rest : List Answer), AtFirstStep s →
    s.envIn =
      updateAnswers v1 (setValue v1 s.cfg.regs.powerdown) ++
      updateAnswers v3 (clearedValue v3 s.cfg.regs.powerdown) ++ [.ok [], .ok []] ++
      updateAnswers v6 (maskedValue v6 s.cfg.regs.rfEn 0) ++
      updateAnswers v8 (maskedValue v8 s.cfg.regs.rfEn s.cfg.regs.rfEn) ++ rest →
    ∃ t1 t, exec (.resetInit slot) s = .next t1 ∧
      t1.trace = .regRead slot s.cfg.regs.control (some v1) :: s.trace ∧
      runToEnd (.resetInit slot) 12 t1 = some t ∧
      EndedOk s t 0
        (updateEvents slot s.cfg.regs.txControl v8 (maskedValue v8 s.cfg.regs.rfEn s.cfg.regs.rfEn) ++ [.hold 100000] ++
         updateEvents slot s.cfg.regs.txControl v6 (maskedValue v6 s.cfg.regs.rfEn 0) ++
         [.regWrite slot s.cfg.regs.txControl s.cfg.regs.txctrlBringup true, .regWrite slot s.cfg.regs.page 0 true] ++
         updateEvents slot s.cfg.regs.control v3 (clearedValue v3 s.cfg.regs.powerdown) ++ [.hold 10000] ++
         updateEvents slot s.cfg.regs.control v1 (setValue v1 s.cfg.regs.powerdown)) rest

/-- 44_lifecycle.md R261: SET_RF_POWER sets or clears the RF-enable bits in one masked update, by IMM8[0]; RESULT 0. -/
def Obligations.SetRfPowerSwitchesTheField : Prop :=
  ∀ (slot imm8 : Byte) (s : State) (v b : Byte) (w : Option Byte) (rest : List Answer), AtFirstStep s →
    b = (if imm8.getLsbD 0 then s.cfg.regs.rfEn else 0) →
    w = (if v &&& s.cfg.regs.rfEn = b then none else some ((v &&& ~~~s.cfg.regs.rfEn) ||| (b &&& s.cfg.regs.rfEn))) →
    s.envIn = updateAnswers v w ++ rest →
    ∃ t1 t, exec (.setRfPower slot imm8) s = .next t1 ∧
      t1.trace = .regRead slot s.cfg.regs.txControl (some v) :: s.trace ∧
      runToEnd (.setRfPower slot imm8) 2 t1 = some t ∧
      EndedOk s t 0 (updateEvents slot s.cfg.regs.txControl v w) rest

/-- 45_constants.md R280, R281, R282: the three constant queries end in their one step with no transaction, whatever
SLOT is. -/
def Obligations.ConstantQueriesReturnTheirConstants : Prop :=
  ∀ (slot : Byte) (s : State),
    (∃ t, exec (.getSpeeds slot) s = .next t ∧ EndedOk s t 0x0000000F [] s.envIn ∧ t.txns = s.txns) ∧
    (∃ t, exec (.getCarrier slot) s = .next t ∧ EndedOk s t 0x00CEE8C0 [] s.envIn ∧ t.txns = s.txns) ∧
    (∃ t, exec (.getMaxFrame slot) s = .next t ∧ EndedOk s t 0x00000040 [] s.envIn ∧ t.txns = s.txns)

/-! ## TRANSCEIVE -/

/-- 42_transceive.md R171, R173, 60_exceptions.md R319: the operand checks come before any transaction, CONFIG before
TIMER_RANGE; where both pass the first transaction is the IDLE command. -/
def Obligations.TransceiveChecksOperandsFirst : Prop :=
  ∀ (slot x : Byte) (s : State) (len : Nat), s.seq.sp = .op 0 → len = (s.seq.larg0.extractLsb' 0 16).toNat →
    (s.cfg.txMax < len → ∃ t, exec (.transceive slot x) s = .next t ∧
      TransceiveFailed s t .config [] ∧ t.txns = s.txns) ∧
    (len ≤ s.cfg.txMax → 99999 < s.seq.larg2.toNat → ∃ t, exec (.transceive slot x) s = .next t ∧
      TransceiveFailed s t .timerRange [] ∧ t.txns = s.txns) ∧
    (len ≤ s.cfg.txMax → s.seq.larg2.toNat ≤ 99999 → ∃ t ok, exec (.transceive slot x) s = .next t ∧
      t.trace = .regWrite slot s.cfg.regs.command s.cfg.regs.cmdIdle ok :: s.trace ∧ t.txns = s.txns + 1)

/-- 42_transceive.md R170, R172, R173, 00_scope.md R12: step 1 is seven writes in order, the timer armed for ten times
the timeout; STATUS stays through all seven, and the first chunk is next. -/
def Obligations.TransceiveArmsWithSevenWrites : Prop :=
  ∀ (slot x : Byte) (s : State) (p d : Byte) (rest : List Answer), s.seq.sp = .op 0 →
    (s.seq.larg0.extractLsb' 0 16).toNat ≤ s.cfg.txMax → deriveTimer (10 * s.seq.larg2.toNat) = some (p, d) →
    s.envIn = List.replicate 7 (.ok []) ++ rest →
    (∃ t1, exec (.transceive slot x) s = .next t1 ∧ t1.status = s.status) ∧
    (∀ n, n ≤ 7 → ∃ u, runSteps (.transceive slot x) n s = some u ∧ u.status = s.status) ∧
    ∃ t, runSteps (.transceive slot x) 7 s = some t ∧ t.seq.sp = .firstChunk ∧ t.envIn = rest ∧
      t.trace =
        [.regWrite slot s.cfg.regs.timerReload d true,
         .regWrite slot s.cfg.regs.interruptEn (s.cfg.regs.irqSet ||| s.cfg.regs.irqTimer) true,
         .regWrite slot s.cfg.regs.interruptRq s.cfg.regs.irqTimer true,
         .regWrite slot s.cfg.regs.timerControl s.cfg.regs.tmrMode true,
         .regWrite slot s.cfg.regs.timerClock p true,
         .regWrite slot s.cfg.regs.interruptRq s.cfg.regs.irqAll7 true,
         .regWrite slot s.cfg.regs.command s.cfg.regs.cmdIdle true] ++ s.trace ∧
      KeepsHostSide s t ∧ KeepsMemory s t

/-- 42_transceive.md R170, R174, R176, R188, 00_scope.md R12: the first chunk is min(64, tx_len) bytes of TXBUF from
index 0, written without reading FIFO_LENGTH, and its step shows STREAMING; the TRANSCEIVE command follows it at once.
The step after that sets tx_off and tests the loop: FIFO_LENGTH is read while bytes remain, else PHASE is AWAIT, polls
is 0 and COMMAND is read. That after the only chunk PHASE is still STREAMING until that step, where R12 puts the write of
R170, is the model's reading of R188 (log 4). -/
def Obligations.TransceiveWritesTheFirstChunkThenStarts : Prop :=
  ∀ (slot x : Byte) (s : State) (len : Nat) (b1 b2 : List Byte) (v : Byte) (rest : List Answer),
    s.seq.sp = .firstChunk → len = (s.seq.larg0.extractLsb' 0 16).toNat →
    s.envIn = .ok b1 :: .ok b2 :: .ok [v] :: rest →
    ∃ t1 t2 t3, exec (.transceive slot x) s = .next t1 ∧
      t1.trace = .fifoWrite slot ((List.range (min 64 len)).map fun k => s.bufByte (0x100 + k)) true :: s.trace ∧
      t1.status = { s.status with phase := .streaming } ∧ t1.seq.sp = .startExchange ∧
      KeepsHostSide s t1 ∧ KeepsMemory s t1 ∧
      exec (.transceive slot x) t1 = .next t2 ∧
      t2.trace = .regWrite slot s.cfg.regs.command s.cfg.regs.cmdTransceive true :: t1.trace ∧
      t2.status = { s.status with phase := .streaming } ∧ t2.seq.sp = .streamEntry ∧
      KeepsHostSide s t2 ∧ KeepsMemory s t2 ∧
      exec (.transceive slot x) t2 = .next t3 ∧ t3.seq.txOff = min 64 len ∧ t3.envIn = rest ∧
      KeepsHostSide s t3 ∧ KeepsMemory s t3 ∧
      (64 < len → t3.trace = .regRead slot s.cfg.regs.fifoLength (some v) :: t2.trace ∧ t3.seq.fill = v ∧
        t3.seq.sp = .nextChunk ∧ t3.status = { s.status with phase := .streaming }) ∧
      (len ≤ 64 → t3.trace = .regRead slot s.cfg.regs.command (some v) :: t2.trace ∧ t3.seq.c = v ∧
        t3.seq.polls = 0 ∧ t3.seq.sp = .pollStatus ∧ t3.status = { s.status with phase := .await })

/-- 42_transceive.md R170, R175, 00_scope.md R12: after a FIFO_LENGTH reading the next chunk is min(64 - fill,
tx_len - tx_off) bytes from TXBUF[tx_off] on, so the FIFO is never overfilled; the step after it advances tx_off and
tests the loop: FIFO_LENGTH is read while bytes remain, else PHASE is AWAIT, polls is 0 and COMMAND is read. With
fill >= 64 nothing is written and FIFO_LENGTH is read again at once. -/
def Obligations.TransceiveLaterChunksNeverOverfill : Prop :=
  ∀ (slot x : Byte) (s : State) (len n : Nat) (b : List Byte) (v : Byte) (rest : List Answer),
    s.seq.sp = .nextChunk → len = (s.seq.larg0.extractLsb' 0 16).toNat → s.seq.txOff < len →
    s.envIn = .ok b :: .ok [v] :: rest → n = min (64 - s.seq.fill.toNat) (len - s.seq.txOff) →
    (s.seq.fill.toNat < 64 → s.seq.fill.toNat + n ≤ 64 ∧ 0 < n ∧
      ∃ t1 t2, exec (.transceive slot x) s = .next t1 ∧
        t1.trace = .fifoWrite slot ((List.range n).map fun k => s.bufByte (0x100 + (s.seq.txOff + k))) true :: s.trace ∧
        t1.status = s.status ∧ t1.seq.sp = .streamBack ∧ KeepsHostSide s t1 ∧ KeepsMemory s t1 ∧
        exec (.transceive slot x) t1 = .next t2 ∧ t2.seq.txOff = s.seq.txOff + n ∧ t2.envIn = rest ∧
        KeepsHostSide s t2 ∧ KeepsMemory s t2 ∧
        (s.seq.txOff + n < len → t2.trace = .regRead slot s.cfg.regs.fifoLength (some v) :: t1.trace ∧
          t2.seq.fill = v ∧ t2.seq.sp = .nextChunk ∧ t2.status = s.status) ∧
        (s.seq.txOff + n = len → t2.trace = .regRead slot s.cfg.regs.command (some v) :: t1.trace ∧ t2.seq.c = v ∧
          t2.seq.polls = 0 ∧ t2.seq.sp = .pollStatus ∧ t2.status = { s.status with phase := .await })) ∧
    (64 ≤ s.seq.fill.toNat →
      ∃ t w, exec (.transceive slot x) s = .next t ∧
        t.trace = .regRead slot s.cfg.regs.fifoLength (some w) :: s.trace ∧ t.seq.fill = w ∧
        t.seq.sp = .nextChunk ∧ t.seq.txOff = s.seq.txOff ∧ t.status = s.status ∧ t.envIn = .ok [v] :: rest ∧
        KeepsHostSide s t ∧ KeepsMemory s t)

/-- 42_transceive.md R176, R189: while TRANSCEIVE streams, the bytes it hands to the FIFO are TXBUF[0..tx_len-1] in
index order, each once: every step that does not end the command sends exactly the bytes between the count before and
the count after, the count never exceeds tx_len, and AWAIT is entered only when all tx_len bytes are sent. -/
def Obligations.TransceiveStreamsEveryByteOnceInOrder : Prop :=
  ∀ (slot x : Byte) (s t : State) (len : Nat),
    s.seq.sp ∈ [Sp.firstChunk, .startExchange, .streamEntry, .nextChunk, .streamBack] →
    s.status.phase = phaseAt s.seq.sp → len = (s.seq.larg0.extractLsb' 0 16).toNat → streamed s.seq ≤ len →
    exec (.transceive slot x) s = .next t → t.status.busy = true →
    (∃ ev, t.trace = ev :: s.trace ∧
      fifoBytes ev = (List.range (streamed t.seq - streamed s.seq)).map fun k =>
        s.bufByte (0x100 + (streamed s.seq + k))) ∧
    streamed s.seq ≤ streamed t.seq ∧ streamed t.seq ≤ len ∧ (t.status.phase = .await → streamed t.seq = len)

/-- 42_transceive.md R188, 10_state.md R31, 00_scope.md R12: PHASE moves along IDLE, STREAMING, AWAIT, DRAIN, SUCCESS one
state at a time or stays, and any of the first four may go to ERROR; no step shows ARMED. -/
def Obligations.PhaseFollowsTheStatesOfTheExchange : Prop :=
  ∀ (slot x : Byte) (s t : State), s.status.phase = phaseAt s.seq.sp → exec (.transceive slot x) s = .next t →
    t.status.phase = s.status.phase ∨ t.status.phase = .error ∨
    (s.status.phase, t.status.phase) ∈
      [(Phase.idle, Phase.streaming), (.streaming, .await), (.await, .drain), (.drain, .success)]

/-- 42_transceive.md R178, 20_memory.md R76: COMMAND = 0x00 alone is completion: IRQ_RX is cleared and the drain's first
step is next; with any other value PRIMARY_STATUS is read; and every other step of AWAIT before the drain stays in AWAIT,
before the drain, or ends with an error. -/
def Obligations.CompletionOnlyWhenCommandReadsZero : Prop :=
  (∀ (slot x : Byte) (s : State) (v : Byte) (rest : List Answer), s.seq.sp = .pollCommand → s.envIn = .ok [v] :: rest →
    ∃ t, exec (.transceive slot x) s = .next t ∧ t.trace = .regRead slot s.cfg.regs.command (some v) :: s.trace ∧
      t.seq.c = v ∧ t.seq.sp = .pollStatus ∧ t.status = s.status ∧ t.envIn = rest ∧ KeepsHostSide s t ∧
      KeepsMemory s t) ∧
  (∀ (slot x : Byte) (s : State) (v : Byte) (rest : List Answer), s.seq.sp = .pollStatus → s.envIn = .ok [v] :: rest →
    (s.seq.c = 0x00 → ∃ t, exec (.transceive slot x) s = .next t ∧
      t.trace = .regWrite slot s.cfg.regs.interruptRq s.cfg.regs.irqRx true :: s.trace ∧ t.seq.sp = .drainLength ∧
      t.status = s.status ∧ t.envIn = rest ∧ KeepsHostSide s t ∧ KeepsMemory s t) ∧
    (s.seq.c ≠ 0x00 → ∃ t, exec (.transceive slot x) s = .next t ∧
      t.trace = .regRead slot s.cfg.regs.primaryStatus (some v) :: s.trace ∧ t.seq.s = v ∧
      t.seq.sp = .pollFlags ∧ t.status = s.status ∧ t.envIn = rest ∧ KeepsHostSide s t ∧ KeepsMemory s t)) ∧
  (∀ (slot x : Byte) (s t : State), s.status.phase = .await → phaseAt s.seq.sp = .await → s.seq.sp ≠ .drainLength →
    exec (.transceive slot x) s = .next t → ¬ (s.seq.sp = .pollStatus ∧ s.seq.c = 0x00) →
    (t.status.phase = .await ∧ phaseAt t.seq.sp = .await ∧ t.seq.sp ≠ .drainLength) ∨
      (t.status.busy = false ∧ t.status.err = true))

/-- 42_transceive.md R177, R179, R180, R182, 60_exceptions.md R319: ERROR_FLAG is read where STAT_ERR is set, and
INTERRUPT_RQ at once where only STAT_IRQ is; a collision, parity or framing bit ends with LINK; else a CRC bit ends with
CRC where CTRL.CRC_ABORT = 1; else INTERRUPT_RQ is read where STAT_IRQ is set, and without it the iteration ends with no
event. No write is issued. -/
def Obligations.ErrorFlagBitsEndWithLinkOrCrc : Prop :=
  (∀ (slot x : Byte) (s : State) (v : Byte) (rest : List Answer), s.seq.sp = .pollFlags →
    s.seq.s &&& s.cfg.regs.statErr ≠ 0 → s.envIn = .ok [v] :: rest →
    ∃ t, exec (.transceive slot x) s = .next t ∧ t.trace = .regRead slot s.cfg.regs.errorFlag (some v) :: s.trace ∧
      t.seq.e = v ∧ t.seq.sp = .testError ∧ t.status = s.status ∧ KeepsHostSide s t ∧ KeepsMemory s t) ∧
  (∀ (slot x : Byte) (s : State) (v : Byte) (rest : List Answer), s.seq.sp = .pollFlags →
    s.seq.s &&& s.cfg.regs.statErr = 0 → s.seq.s &&& s.cfg.regs.statIrq ≠ 0 → s.envIn = .ok [v] :: rest →
    ∃ t, exec (.transceive slot x) s = .next t ∧
      t.trace = .regRead slot s.cfg.regs.interruptRq (some v) :: s.trace ∧ t.seq.q = v ∧ t.seq.sp = .testIrq ∧
      t.status = s.status ∧ KeepsHostSide s t ∧ KeepsMemory s t) ∧
  (∀ (slot x : Byte) (s : State) (link : Byte), s.seq.sp = .testError →
    link = s.cfg.regs.errColl ||| s.cfg.regs.errParity ||| s.cfg.regs.errFraming →
    (s.seq.e &&& link ≠ 0 → ∃ t, exec (.transceive slot x) s = .next t ∧
      TransceiveFailed s t .link [] ∧ t.txns = s.txns) ∧
    (s.seq.e &&& link = 0 → s.ctrl.crcAbort = true → s.seq.e &&& s.cfg.regs.errCrc ≠ 0 →
      ∃ t, exec (.transceive slot x) s = .next t ∧ TransceiveFailed s t .crc [] ∧ t.txns = s.txns) ∧
    (s.seq.e &&& link = 0 → s.ctrl.crcAbort = false ∨ s.seq.e &&& s.cfg.regs.errCrc = 0 →
      (∀ v rest, s.envIn = .ok [v] :: rest → s.seq.s &&& s.cfg.regs.statIrq ≠ 0 →
        ∃ t, exec (.transceive slot x) s = .next t ∧
          t.trace = .regRead slot s.cfg.regs.interruptRq (some v) :: s.trace ∧ t.seq.q = v ∧ t.seq.sp = .testIrq ∧
          t.status = s.status ∧ KeepsHostSide s t ∧ KeepsMemory s t) ∧
      (s.seq.s &&& s.cfg.regs.statIrq = 0 → EndsIteration slot x s)))

/-- 42_transceive.md R181: the timer flag without the receive flag in one INTERRUPT_RQ value is a timeout: IRQ_TIMER is
cleared and the command ends with TIMEOUT, or with TRANSPORT where that write fails; with both flags, or without the
timer flag, the iteration ends with no event (R182). That TIMEOUT comes in the step after the write's answer and
TRANSPORT in the step of the failed write is the model's reading (log 5). -/
def Obligations.TimerFlagWithoutReceiveFlagIsTimeout : Prop :=
  ∀ (slot x : Byte) (s : State), s.seq.sp = .testIrq →
    (s.seq.q &&& s.cfg.regs.irqTimer ≠ 0 → s.seq.q &&& s.cfg.regs.irqRx = 0 →
      (∀ b rest, s.envIn = .ok b :: rest → ∃ t1 t, exec (.transceive slot x) s = .next t1 ∧
        t1.status = s.status ∧ exec (.transceive slot x) t1 = .next t ∧
        TransceiveFailed s t .timeout [.regWrite slot s.cfg.regs.interruptRq s.cfg.regs.irqTimer true]) ∧
      (∀ rest, s.envIn = .fail :: rest → ∃ t, exec (.transceive slot x) s = .next t ∧
        TransceiveFailed s t .transport [.regWrite slot s.cfg.regs.interruptRq s.cfg.regs.irqTimer false])) ∧
    (s.seq.q &&& s.cfg.regs.irqTimer = 0 ∨ s.seq.q &&& s.cfg.regs.irqRx ≠ 0 → EndsIteration slot x s)

/-- 42_transceive.md R177, R182: an iteration whose PRIMARY_STATUS has neither STAT_ERR nor STAT_IRQ reads nothing more;
it counts in polls and yields, and where that reaches a finite POLL_LIMIT the command ends with POLL_LIMIT and no yield.
The iterations that end with no event after reading ERROR_FLAG or INTERRUPT_RQ are in the two statements above. -/
def Obligations.IterationWithoutEventYieldsOrHitsTheLimit : Prop :=
  ∀ (slot x : Byte) (s : State), s.seq.sp = .pollFlags → s.seq.s &&& s.cfg.regs.statErr = 0 →
    s.seq.s &&& s.cfg.regs.statIrq = 0 → EndsIteration slot x s

/-- 42_transceive.md R183, R188, 00_scope.md R12: the drain's first step shows DRAIN and reads FIFO_LENGTH; 0 ends with
EMPTY and no FifoRead; else exactly min(avail, cap) bytes are read in one FifoRead, and the step after it writes them to
RXBUF in order, but where its own transaction, the surplus flush's read, fails (R184, R186). -/
def Obligations.DrainReadsAtMostTheCapacity : Prop :=
  (∀ (slot x : Byte) (s : State) (v : Byte) (rest : List Answer), s.seq.sp = .drainLength → s.envIn = .ok [v] :: rest →
    ∃ t, exec (.transceive slot x) s = .next t ∧ t.trace = .regRead slot s.cfg.regs.fifoLength (some v) :: s.trace ∧
      t.seq.avail = v ∧ t.seq.sp = .drainRead ∧ t.status = { s.status with phase := .drain } ∧
      KeepsHostSide s t ∧ KeepsMemory s t) ∧
  (∀ (slot x : Byte) (s : State), s.seq.sp = .drainRead →
    (s.seq.avail = 0 → ∃ t, exec (.transceive slot x) s = .next t ∧ TransceiveFailed s t .empty [] ∧
      t.txns = s.txns) ∧
    (∀ n bytes rest, s.seq.avail ≠ 0 → n = min s.seq.avail.toNat (s.seq.larg1.extractLsb' 0 16).toNat →
      bytes.length = n → s.envIn = .ok bytes :: rest →
      ∃ t, exec (.transceive slot x) s = .next t ∧ t.trace = .fifoRead slot n (some bytes) :: s.trace ∧
        t.seq.bytes = bytes ∧ t.seq.n = n ∧ t.seq.sp = .drainFlush ∧ t.status = s.status ∧ t.envIn = rest ∧
        KeepsHostSide s t ∧ KeepsMemory s t ∧
        ∃ u, exec (.transceive slot x) t = .next u ∧
          (s.ctrl.surplusFlush = false ∨ t.nextAnswer ≠ .fail → HoldsAnswer u bytes)))

/-- 42_transceive.md R183, R184, R185: the end of a successful exchange, from the step after the FifoRead on: RXBUF holds
the bytes read, RESULT is n, TRUNC is avail > cap; a truncated answer with CTRL.SURPLUS_FLUSH = 1 first sets FLUSH_FIFO
in CONTROL where it is not set already. -/
def Obligations.SuccessfulExchangeReportsLengthAndTruncation : Prop :=
  ∀ (slot x : Byte) (s : State) (cut : Bool), cut = decide ((s.seq.larg1.extractLsb' 0 16).toNat < s.seq.avail.toNat) →
    (s.seq.sp = .drainFlush → cut = false ∨ s.ctrl.surplusFlush = false →
      ∃ t, exec (.transceive slot x) s = .next t ∧ TransceiveSucceeded s t s.seq.n cut [] ∧
        HoldsAnswer t s.seq.bytes ∧ t.txns = s.txns) ∧
    (∀ v w rest, s.seq.sp = .drainFlush → cut = true → s.ctrl.surplusFlush = true → s.status.busy = true →
      w = setValue v s.cfg.regs.flushFifo → s.envIn = updateAnswers v w ++ rest →
      ∃ t1 t, exec (.transceive slot x) s = .next t1 ∧ runToEnd (.transceive slot x) 2 t1 = some t ∧
        TransceiveSucceeded s t s.seq.n true (updateEvents slot s.cfg.regs.control v w) ∧
        HoldsAnswer t s.seq.bytes) ∧
    (s.seq.sp = .finish → ∃ t, exec (.transceive slot x) s = .next t ∧ TransceiveSucceeded s t s.seq.n cut [] ∧
      KeepsMemory s t ∧ t.txns = s.txns)

/-- 42_transceive.md R183, R185, R186, 60_exceptions.md R312: TRANSCEIVE ends in exactly one of two ways: success, where
RXBUF takes the bytes read if the ending step is the one after the FifoRead and else stays, or an error
that sets PHASE to ERROR, RESULT and TRUNC to 0 and leaves no byte of RXBUF specified. -/
def Obligations.TransceiveEndsInSuccessOrError : Prop :=
  ∀ (slot x : Byte) (s t : State), s.status.busy = true → exec (.transceive slot x) s = .next t →
    t.status.busy = false →
    (∃ events, TransceiveSucceeded s t s.seq.n (decide ((s.seq.larg1.extractLsb' 0 16).toNat < s.seq.avail.toNat))
      events ∧ (s.seq.sp = .drainFlush → HoldsAnswer t s.seq.bytes) ∧
      (s.seq.sp ≠ .drainFlush → KeepsMemory s t)) ∨
    ∃ code events, code ≠ .none ∧ code ≠ .illegal ∧ TransceiveFailed s t code events

/-- 42_transceive.md R187: IMM8[0] of TRANSCEIVE is accepted with either value and changes no state and no
transaction. -/
def Obligations.ToggleHintHasNoEffect : Prop :=
  (∀ slot : Byte, decode (packWord 0 0 slot 6) = .ok (.transceive slot 0) ∧
    decode (packWord 0 1 slot 6) = .ok (.transceive slot 1)) ∧
  ∀ (slot : Byte) (s : State), exec (.transceive slot 0) s = exec (.transceive slot 1) s

/-- 42_transceive.md R170, R177, R178, R183, R185, R190: a whole exchange of at most 64 bytes, with POLL_LIMIT INF and no
surplus flush: after any number of poll iterations with no event the command register reads 0, the drain finds `avail`
bytes, and the command ends in success with min(avail, cap) bytes in RXBUF, after exactly the transactions of R170. -/
def Obligations.TransceiveExchangeSucceedsAfterAnyNumberOfPolls : Prop :=
  ∀ (slot x : Byte) (s : State) (len n : Nat) (p d avail : Byte) (polls : List (Byte × Byte)) (bytes : List Byte)
    (rest : List Answer), AtFirstStep s → s.cfg.pollLimit = none → s.ctrl.surplusFlush = false →
    len = (s.seq.larg0.extractLsb' 0 16).toNat → len ≤ 64 → len ≤ s.cfg.txMax →
    deriveTimer (10 * s.seq.larg2.toNat) = some (p, d) →
    (∀ it ∈ polls, it.1 ≠ 0 ∧ it.2 &&& s.cfg.regs.statErr = 0 ∧ it.2 &&& s.cfg.regs.statIrq = 0) →
    avail ≠ 0 → n = min avail.toNat (s.seq.larg1.extractLsb' 0 16).toNat → bytes.length = n →
    s.envIn = List.replicate 9 (.ok []) ++ (polls.flatMap fun it => [.ok [it.1], .ok [it.2]]) ++
      [.ok [0], .ok [], .ok [avail], .ok bytes] ++ rest →
    ∃ t1 t, exec (.transceive slot x) s = .next t1 ∧ t1.status.busy = true ∧
      runToEnd (.transceive slot x) (14 + 3 * polls.length) s = some t ∧
      t.result = BitVec.ofNat 32 n ∧
      t.status = { s.status with
        busy := false, done := true
        trunc := decide ((s.seq.larg1.extractLsb' 0 16).toNat < avail.toNat), phase := .success } ∧
      HoldsAnswer t bytes ∧ KeepsHostSide s t ∧ t.envIn = rest ∧
      t.trace =
        [.fifoRead slot n (some bytes), .regRead slot s.cfg.regs.fifoLength (some avail),
         .regWrite slot s.cfg.regs.interruptRq s.cfg.regs.irqRx true, .regRead slot s.cfg.regs.command (some 0)] ++
        (polls.reverse.flatMap fun it =>
          [.yield 1000, .regRead slot s.cfg.regs.primaryStatus (some it.2),
           .regRead slot s.cfg.regs.command (some it.1)]) ++
        [.regWrite slot s.cfg.regs.command s.cfg.regs.cmdTransceive true,
         .fifoWrite slot ((List.range len).map fun k => s.bufByte (0x100 + k)) true,
         .regWrite slot s.cfg.regs.timerReload d true,
         .regWrite slot s.cfg.regs.interruptEn (s.cfg.regs.irqSet ||| s.cfg.regs.irqTimer) true,
         .regWrite slot s.cfg.regs.interruptRq s.cfg.regs.irqTimer true,
         .regWrite slot s.cfg.regs.timerControl s.cfg.regs.tmrMode true,
         .regWrite slot s.cfg.regs.timerClock p true,
         .regWrite slot s.cfg.regs.interruptRq s.cfg.regs.irqAll7 true,
         .regWrite slot s.cfg.regs.command s.cfg.regs.cmdIdle true] ++ s.trace

/-! ## Reads of the buffers -/

/-- 20_memory.md R68, R69, R70, 10_state.md R33, R34: an aligned read of a reserved offset returns 0; one of TXBUF or
RXBUF returns the bytes held there, little-endian with the high bytes 0, an unspecified byte as its free value (log 6);
nothing else changes. RXBUF is left out from the answer to the drain's FifoRead to the end of that TRANSCEIVE, where the
model gives a free value; that before it the previous content is read, while BUSY as well, is the model's choice
(log 14). -/
def Obligations.BufferReadsReturnTheStoredBytes : Prop :=
  ∀ (s : State) (o : BitVec 12) (size : AccessSize) (rest : List HostTurn), s.hostIn = .read o size :: rest →
    o.toNat % size.bytes = 0 →
    (0x01C ≤ o.toNat → o.toNat < 0x100 ∨ 0x300 ≤ o.toNat →
      step s = .next { s with hostIn := rest, busOut := 0 :: s.busOut }) ∧
    (0x100 ≤ o.toNat → o.toNat < 0x300 →
      o.toNat < 0x200 ∨ s.status.busy = false ∨
        (s.seq.sp ≠ .drainFlush ∧ s.seq.sp ≠ .flushWrite ∧ s.seq.sp ≠ .finish) →
      ∃ w, step s = .next { s with hostIn := rest, busOut := w :: s.busOut } ∧
        (∀ i, i < size.bytes → w.extractLsb' (8 * i) 8 = s.bufByte (o.toNat + i)) ∧
        w.toNat < 2 ^ (8 * size.bytes))
end

