-- ==== Sys2Proof/Laws/Decode.lean ====
section
/-! SUPPORT. The fields of the command word: packing and unpacking them, and the little-endian bytes of a word. -/

namespace Sys2Proof

theorem packWord_toNat (r i s o : Byte) :
    (packWord r i s o).toNat = ((r.toNat * 256 + i.toNat) * 256 + s.toNat) * 256 + o.toNat := by
  have h1 : (packWord r i s o).toNat = (r ++ i ++ s).toNat <<< 8 ||| o.toNat := BitVec.toNat_append (r ++ i ++ s) o
  have h2 := BitVec.toNat_append (r ++ i) s
  have h3 := BitVec.toNat_append r i
  rw [← Nat.shiftLeft_add_eq_or_of_lt o.isLt] at h1
  rw [← Nat.shiftLeft_add_eq_or_of_lt s.isLt] at h2
  rw [← Nat.shiftLeft_add_eq_or_of_lt i.isLt] at h3
  rw [h1, h2, h3]
  simp only [Nat.shiftLeft_eq, Nat.reducePow]

theorem opcOf_packWord (r i s o : Byte) : opcOf (packWord r i s o) = o := by
  apply BitVec.eq_of_toNat_eq
  have := o.isLt
  simp only [opcOf, BitVec.extractLsb'_toNat, packWord_toNat, Nat.shiftRight_eq_div_pow]
  omega

theorem slotOf_packWord (r i s o : Byte) : slotOf (packWord r i s o) = s := by
  apply BitVec.eq_of_toNat_eq
  have := o.isLt
  have := s.isLt
  simp only [slotOf, BitVec.extractLsb'_toNat, packWord_toNat, Nat.shiftRight_eq_div_pow]
  omega

theorem immOf_packWord (r i s o : Byte) : immOf (packWord r i s o) = i := by
  apply BitVec.eq_of_toNat_eq
  have := o.isLt
  have := s.isLt
  have := i.isLt
  simp only [immOf, BitVec.extractLsb'_toNat, packWord_toNat, Nat.shiftRight_eq_div_pow]
  omega

theorem rsvOf_packWord (r i s o : Byte) : rsvOf (packWord r i s o) = r := by
  apply BitVec.eq_of_toNat_eq
  have := o.isLt
  have := s.isLt
  have := i.isLt
  have := r.isLt
  simp only [rsvOf, BitVec.extractLsb'_toNat, packWord_toNat, Nat.shiftRight_eq_div_pow]
  omega

/-- A word is its four fields put together. -/
theorem packWord_fields (w : Word) : packWord (rsvOf w) (immOf w) (slotOf w) (opcOf w) = w := by
  apply BitVec.eq_of_toNat_eq
  have := w.isLt
  simp only [packWord_toNat, rsvOf, immOf, slotOf, opcOf, BitVec.extractLsb'_toNat, Nat.shiftRight_eq_div_pow]
  omega

@[simp] theorem leBytes_length (w : Word) (n : Nat) : (leBytes w n).length = n := by
  simp [leBytes]

theorem leBytes_getElem (w : Word) {n i : Nat} (h : i < n) :
    (leBytes w n)[i]'(by simpa using h) = w.extractLsb' (8 * i) 8 := by
  simp [leBytes]

/-- One more byte below a word of at most three. -/
theorem leWord_toNat_cons (b : Byte) {bs : List Byte} (h : (leWord bs).toNat < 2 ^ 24) :
    (leWord (b :: bs)).toNat = b.toNat + 256 * (leWord bs).toNat := by
  have hb := b.isLt
  have hs : ((leWord bs) <<< 8).toNat = 2 ^ 8 * (leWord bs).toNat := by
    rw [BitVec.toNat_shiftLeft, Nat.shiftLeft_eq]; omega
  rw [leWord, BitVec.toNat_or, hs, Nat.or_comm, ← Nat.two_pow_add_eq_or_of_lt (by simp; omega)]
  simp; omega

theorem leWord_toNat_lt (bs : List Byte) (h : bs.length ≤ 4) : (leWord bs).toNat < 2 ^ (8 * bs.length) := by
  induction bs with
  | nil => decide
  | cons b bs ih =>
    have hl : bs.length ≤ 3 := by simp at h; omega
    have hi := ih (by omega)
    have hp : 2 ^ (8 * bs.length) ≤ 2 ^ 24 := Nat.pow_le_pow_right (by decide) (by omega)
    rw [leWord_toNat_cons b (by omega), List.length_cons, Nat.mul_add, Nat.pow_add]
    have := b.isLt
    omega

/-- Byte `i` of the word of at most four bytes is the `i`th of them. -/
theorem leWord_byte (bs : List Byte) (h : bs.length ≤ 4) {i : Nat} (hi : i < bs.length) :
    (leWord bs).extractLsb' (8 * i) 8 = bs[i] := by
  induction bs generalizing i with
  | nil => simp at hi
  | cons b bs ih =>
    have hl : bs.length ≤ 3 := by simp at h; omega
    have hlt := leWord_toNat_lt bs (by omega)
    have hp : 2 ^ (8 * bs.length) ≤ 2 ^ 24 := Nat.pow_le_pow_right (by decide) (by omega)
    have hb := b.isLt
    apply BitVec.eq_of_toNat_eq
    rw [BitVec.extractLsb'_toNat, leWord_toNat_cons b (by omega), Nat.shiftRight_eq_div_pow]
    cases i with
    | zero => simp; omega
    | succ i =>
      have hi' : i < bs.length := by simpa using hi
      have := congrArg BitVec.toNat (ih (by omega) hi')
      rw [BitVec.extractLsb'_toNat, Nat.shiftRight_eq_div_pow] at this
      rw [List.getElem_cons_succ, ← this, Nat.mul_succ, Nat.add_comm (8 * i) 8, Nat.pow_add, ← Nat.div_div_eq_div_mul]
      congr 2
      omega

end Sys2Proof
end

