-- ==== Sys2Proof/Laws/State.lean ====
section
/-! SUPPORT. One lemma per field per update of the state, so that no proof unfolds a record update. -/

namespace Sys2Proof.Machine

/-! ## Status -/

@[simp] theorem Status.accepted_busy (st : Status) : (st.accepted).busy = true := rfl
@[simp] theorem Status.accepted_done (st : Status) : (st.accepted).done = false := rfl
@[simp] theorem Status.accepted_err (st : Status) : (st.accepted).err = false := rfl
@[simp] theorem Status.accepted_trunc (st : Status) : (st.accepted).trunc = false := rfl
@[simp] theorem Status.accepted_cmdOvr (st : Status) : (st.accepted).cmdOvr = st.cmdOvr := rfl
@[simp] theorem Status.accepted_ecode (st : Status) : (st.accepted).ecode = .none := rfl
@[simp] theorem Status.accepted_phase (st : Status) : (st.accepted).phase = .idle := rfl

@[simp] theorem Status.overrun_busy (st : Status) : (st.overrun).busy = st.busy := rfl
@[simp] theorem Status.overrun_done (st : Status) : (st.overrun).done = st.done := rfl
@[simp] theorem Status.overrun_err (st : Status) : (st.overrun).err = st.err := rfl
@[simp] theorem Status.overrun_trunc (st : Status) : (st.overrun).trunc = st.trunc := rfl
@[simp] theorem Status.overrun_cmdOvr (st : Status) : (st.overrun).cmdOvr = true := rfl
@[simp] theorem Status.overrun_ecode (st : Status) : (st.overrun).ecode = st.ecode := rfl
@[simp] theorem Status.overrun_phase (st : Status) : (st.overrun).phase = st.phase := rfl

@[simp] theorem Status.completed_busy (st : Status) : (st.completed).busy = false := rfl
@[simp] theorem Status.completed_done (st : Status) : (st.completed).done = true := rfl
@[simp] theorem Status.completed_err (st : Status) : (st.completed).err = st.err := rfl
@[simp] theorem Status.completed_trunc (st : Status) : (st.completed).trunc = st.trunc := rfl
@[simp] theorem Status.completed_cmdOvr (st : Status) : (st.completed).cmdOvr = st.cmdOvr := rfl
@[simp] theorem Status.completed_ecode (st : Status) : (st.completed).ecode = st.ecode := rfl
@[simp] theorem Status.completed_phase (st : Status) : (st.completed).phase = st.phase := rfl

@[simp] theorem Status.failed_busy (b : Bool) (code : ErrCode) (st : Status) : (st.failed b code).busy = false := rfl
@[simp] theorem Status.failed_done (b : Bool) (code : ErrCode) (st : Status) : (st.failed b code).done = true := rfl
@[simp] theorem Status.failed_err (b : Bool) (code : ErrCode) (st : Status) : (st.failed b code).err = true := rfl
@[simp] theorem Status.failed_trunc (b : Bool) (code : ErrCode) (st : Status) : (st.failed b code).trunc = false := rfl
@[simp] theorem Status.failed_cmdOvr (b : Bool) (code : ErrCode) (st : Status) : (st.failed b code).cmdOvr = st.cmdOvr := rfl
@[simp] theorem Status.failed_ecode (b : Bool) (code : ErrCode) (st : Status) : (st.failed b code).ecode = code := rfl
@[simp] theorem Status.failed_phase (b : Bool) (code : ErrCode) (st : Status) : (st.failed b code).phase = if b then .error else st.phase := rfl

@[simp] theorem Status.acknowledge_busy (v : Word) (st : Status) : (st.acknowledge v).busy = st.busy := rfl
@[simp] theorem Status.acknowledge_done (v : Word) (st : Status) : (st.acknowledge v).done = (st.done && !v.getLsbD 1) := rfl
@[simp] theorem Status.acknowledge_err (v : Word) (st : Status) : (st.acknowledge v).err = (st.err && !v.getLsbD 2) := rfl
@[simp] theorem Status.acknowledge_trunc (v : Word) (st : Status) : (st.acknowledge v).trunc = st.trunc := rfl
@[simp] theorem Status.acknowledge_cmdOvr (v : Word) (st : Status) : (st.acknowledge v).cmdOvr = (st.cmdOvr && !v.getLsbD 4) := rfl
@[simp] theorem Status.acknowledge_ecode (v : Word) (st : Status) : (st.acknowledge v).ecode = st.ecode := rfl
@[simp] theorem Status.acknowledge_phase (v : Word) (st : Status) : (st.acknowledge v).phase = st.phase := rfl

/-! ## State -/

@[simp] theorem forgetRx_cfg (s : State) : (forgetRx s).cfg = s.cfg := rfl
@[simp] theorem forgetRx_cmd (s : State) : (forgetRx s).cmd = s.cmd := rfl
@[simp] theorem forgetRx_status (s : State) : (forgetRx s).status = s.status := rfl
@[simp] theorem forgetRx_ctrl (s : State) : (forgetRx s).ctrl = s.ctrl := rfl
@[simp] theorem forgetRx_arg0 (s : State) : (forgetRx s).arg0 = s.arg0 := rfl
@[simp] theorem forgetRx_arg1 (s : State) : (forgetRx s).arg1 = s.arg1 := rfl
@[simp] theorem forgetRx_arg2 (s : State) : (forgetRx s).arg2 = s.arg2 := rfl
@[simp] theorem forgetRx_result (s : State) : (forgetRx s).result = s.result := rfl
@[simp] theorem forgetRx_mem (s : State) : (forgetRx s).mem = s.mem.dropRx := rfl
@[simp] theorem forgetRx_seq (s : State) : (forgetRx s).seq = s.seq := rfl
@[simp] theorem forgetRx_hostIn (s : State) : (forgetRx s).hostIn = s.hostIn := rfl
@[simp] theorem forgetRx_busOut (s : State) : (forgetRx s).busOut = s.busOut := rfl
@[simp] theorem forgetRx_envIn (s : State) : (forgetRx s).envIn = s.envIn := rfl
@[simp] theorem forgetRx_txns (s : State) : (forgetRx s).txns = s.txns := rfl
@[simp] theorem forgetRx_txEpoch (s : State) : (forgetRx s).txEpoch = s.txEpoch := rfl
@[simp] theorem forgetRx_rxEpoch (s : State) : (forgetRx s).rxEpoch = s.rxEpoch + 1 := rfl
@[simp] theorem forgetRx_trace (s : State) : (forgetRx s).trace = s.trace := rfl

@[simp] theorem storeRx_cfg (bytes : List Byte) (s : State) : (storeRx bytes s).cfg = s.cfg := rfl
@[simp] theorem storeRx_cmd (bytes : List Byte) (s : State) : (storeRx bytes s).cmd = s.cmd := rfl
@[simp] theorem storeRx_status (bytes : List Byte) (s : State) : (storeRx bytes s).status = s.status := rfl
@[simp] theorem storeRx_ctrl (bytes : List Byte) (s : State) : (storeRx bytes s).ctrl = s.ctrl := rfl
@[simp] theorem storeRx_arg0 (bytes : List Byte) (s : State) : (storeRx bytes s).arg0 = s.arg0 := rfl
@[simp] theorem storeRx_arg1 (bytes : List Byte) (s : State) : (storeRx bytes s).arg1 = s.arg1 := rfl
@[simp] theorem storeRx_arg2 (bytes : List Byte) (s : State) : (storeRx bytes s).arg2 = s.arg2 := rfl
@[simp] theorem storeRx_result (bytes : List Byte) (s : State) : (storeRx bytes s).result = s.result := rfl
@[simp] theorem storeRx_mem (bytes : List Byte) (s : State) : (storeRx bytes s).mem = s.mem.dropRx.writeBytes (rxAddr 0) (bytes.take 256) := rfl
@[simp] theorem storeRx_seq (bytes : List Byte) (s : State) : (storeRx bytes s).seq = s.seq := rfl
@[simp] theorem storeRx_hostIn (bytes : List Byte) (s : State) : (storeRx bytes s).hostIn = s.hostIn := rfl
@[simp] theorem storeRx_busOut (bytes : List Byte) (s : State) : (storeRx bytes s).busOut = s.busOut := rfl
@[simp] theorem storeRx_envIn (bytes : List Byte) (s : State) : (storeRx bytes s).envIn = s.envIn := rfl
@[simp] theorem storeRx_txns (bytes : List Byte) (s : State) : (storeRx bytes s).txns = s.txns := rfl
@[simp] theorem storeRx_txEpoch (bytes : List Byte) (s : State) : (storeRx bytes s).txEpoch = s.txEpoch := rfl
@[simp] theorem storeRx_rxEpoch (bytes : List Byte) (s : State) : (storeRx bytes s).rxEpoch = s.rxEpoch + 1 := rfl
@[simp] theorem storeRx_trace (bytes : List Byte) (s : State) : (storeRx bytes s).trace = s.trace := rfl

@[simp] theorem complete_cfg (r : Word) (s : State) : (complete r s).cfg = s.cfg := rfl
@[simp] theorem complete_cmd (r : Word) (s : State) : (complete r s).cmd = s.cmd := rfl
@[simp] theorem complete_status (r : Word) (s : State) : (complete r s).status = s.status.completed := rfl
@[simp] theorem complete_ctrl (r : Word) (s : State) : (complete r s).ctrl = s.ctrl := rfl
@[simp] theorem complete_arg0 (r : Word) (s : State) : (complete r s).arg0 = s.arg0 := rfl
@[simp] theorem complete_arg1 (r : Word) (s : State) : (complete r s).arg1 = s.arg1 := rfl
@[simp] theorem complete_arg2 (r : Word) (s : State) : (complete r s).arg2 = s.arg2 := rfl
@[simp] theorem complete_result (r : Word) (s : State) : (complete r s).result = r := rfl
@[simp] theorem complete_mem (r : Word) (s : State) : (complete r s).mem = s.mem := rfl
@[simp] theorem complete_seq (r : Word) (s : State) : (complete r s).seq = Seq.idle := rfl
@[simp] theorem complete_hostIn (r : Word) (s : State) : (complete r s).hostIn = s.hostIn := rfl
@[simp] theorem complete_busOut (r : Word) (s : State) : (complete r s).busOut = s.busOut := rfl
@[simp] theorem complete_envIn (r : Word) (s : State) : (complete r s).envIn = s.envIn := rfl
@[simp] theorem complete_txns (r : Word) (s : State) : (complete r s).txns = s.txns := rfl
@[simp] theorem complete_txEpoch (r : Word) (s : State) : (complete r s).txEpoch = s.txEpoch := rfl
@[simp] theorem complete_rxEpoch (r : Word) (s : State) : (complete r s).rxEpoch = s.rxEpoch := rfl
@[simp] theorem complete_trace (r : Word) (s : State) : (complete r s).trace = s.trace := rfl

@[simp] theorem raiseError_cfg (code : ErrCode) (r : Word) (s : State) : (raiseError code r s).cfg = s.cfg := rfl
@[simp] theorem raiseError_cmd (code : ErrCode) (r : Word) (s : State) : (raiseError code r s).cmd = s.cmd := rfl
@[simp] theorem raiseError_status (code : ErrCode) (r : Word) (s : State) : (raiseError code r s).status = s.status.failed false code := rfl
@[simp] theorem raiseError_ctrl (code : ErrCode) (r : Word) (s : State) : (raiseError code r s).ctrl = s.ctrl := rfl
@[simp] theorem raiseError_arg0 (code : ErrCode) (r : Word) (s : State) : (raiseError code r s).arg0 = s.arg0 := rfl
@[simp] theorem raiseError_arg1 (code : ErrCode) (r : Word) (s : State) : (raiseError code r s).arg1 = s.arg1 := rfl
@[simp] theorem raiseError_arg2 (code : ErrCode) (r : Word) (s : State) : (raiseError code r s).arg2 = s.arg2 := rfl
@[simp] theorem raiseError_result (code : ErrCode) (r : Word) (s : State) : (raiseError code r s).result = r := rfl
@[simp] theorem raiseError_mem (code : ErrCode) (r : Word) (s : State) : (raiseError code r s).mem = s.mem := rfl
@[simp] theorem raiseError_seq (code : ErrCode) (r : Word) (s : State) : (raiseError code r s).seq = Seq.idle := rfl
@[simp] theorem raiseError_hostIn (code : ErrCode) (r : Word) (s : State) : (raiseError code r s).hostIn = s.hostIn := rfl
@[simp] theorem raiseError_busOut (code : ErrCode) (r : Word) (s : State) : (raiseError code r s).busOut = s.busOut := rfl
@[simp] theorem raiseError_envIn (code : ErrCode) (r : Word) (s : State) : (raiseError code r s).envIn = s.envIn := rfl
@[simp] theorem raiseError_txns (code : ErrCode) (r : Word) (s : State) : (raiseError code r s).txns = s.txns := rfl
@[simp] theorem raiseError_txEpoch (code : ErrCode) (r : Word) (s : State) : (raiseError code r s).txEpoch = s.txEpoch := rfl
@[simp] theorem raiseError_rxEpoch (code : ErrCode) (r : Word) (s : State) : (raiseError code r s).rxEpoch = s.rxEpoch := rfl
@[simp] theorem raiseError_trace (code : ErrCode) (r : Word) (s : State) : (raiseError code r s).trace = s.trace := rfl

@[simp] theorem raiseTransceive_cfg (code : ErrCode) (s : State) : (raiseTransceive code s).cfg = s.cfg := rfl
@[simp] theorem raiseTransceive_cmd (code : ErrCode) (s : State) : (raiseTransceive code s).cmd = s.cmd := rfl
@[simp] theorem raiseTransceive_status (code : ErrCode) (s : State) : (raiseTransceive code s).status = s.status.failed true code := rfl
@[simp] theorem raiseTransceive_ctrl (code : ErrCode) (s : State) : (raiseTransceive code s).ctrl = s.ctrl := rfl
@[simp] theorem raiseTransceive_arg0 (code : ErrCode) (s : State) : (raiseTransceive code s).arg0 = s.arg0 := rfl
@[simp] theorem raiseTransceive_arg1 (code : ErrCode) (s : State) : (raiseTransceive code s).arg1 = s.arg1 := rfl
@[simp] theorem raiseTransceive_arg2 (code : ErrCode) (s : State) : (raiseTransceive code s).arg2 = s.arg2 := rfl
@[simp] theorem raiseTransceive_result (code : ErrCode) (s : State) : (raiseTransceive code s).result = 0 := rfl
@[simp] theorem raiseTransceive_mem (code : ErrCode) (s : State) : (raiseTransceive code s).mem = s.mem.dropRx := rfl
@[simp] theorem raiseTransceive_seq (code : ErrCode) (s : State) : (raiseTransceive code s).seq = Seq.idle := rfl
@[simp] theorem raiseTransceive_hostIn (code : ErrCode) (s : State) : (raiseTransceive code s).hostIn = s.hostIn := rfl
@[simp] theorem raiseTransceive_busOut (code : ErrCode) (s : State) : (raiseTransceive code s).busOut = s.busOut := rfl
@[simp] theorem raiseTransceive_envIn (code : ErrCode) (s : State) : (raiseTransceive code s).envIn = s.envIn := rfl
@[simp] theorem raiseTransceive_txns (code : ErrCode) (s : State) : (raiseTransceive code s).txns = s.txns := rfl
@[simp] theorem raiseTransceive_txEpoch (code : ErrCode) (s : State) : (raiseTransceive code s).txEpoch = s.txEpoch := rfl
@[simp] theorem raiseTransceive_rxEpoch (code : ErrCode) (s : State) : (raiseTransceive code s).rxEpoch = s.rxEpoch + 1 := rfl
@[simp] theorem raiseTransceive_trace (code : ErrCode) (s : State) : (raiseTransceive code s).trace = s.trace := rfl

@[simp] theorem raiseIllegal_cfg (s : State) : (raiseIllegal s).cfg = s.cfg := rfl
@[simp] theorem raiseIllegal_cmd (s : State) : (raiseIllegal s).cmd = s.cmd := rfl
@[simp] theorem raiseIllegal_status (s : State) : (raiseIllegal s).status = s.status.failed false .illegal := rfl
@[simp] theorem raiseIllegal_ctrl (s : State) : (raiseIllegal s).ctrl = s.ctrl := rfl
@[simp] theorem raiseIllegal_arg0 (s : State) : (raiseIllegal s).arg0 = s.arg0 := rfl
@[simp] theorem raiseIllegal_arg1 (s : State) : (raiseIllegal s).arg1 = s.arg1 := rfl
@[simp] theorem raiseIllegal_arg2 (s : State) : (raiseIllegal s).arg2 = s.arg2 := rfl
@[simp] theorem raiseIllegal_result (s : State) : (raiseIllegal s).result = 0 := rfl
@[simp] theorem raiseIllegal_mem (s : State) : (raiseIllegal s).mem = s.mem := rfl
@[simp] theorem raiseIllegal_seq (s : State) : (raiseIllegal s).seq = Seq.idle := rfl
@[simp] theorem raiseIllegal_hostIn (s : State) : (raiseIllegal s).hostIn = s.hostIn := rfl
@[simp] theorem raiseIllegal_busOut (s : State) : (raiseIllegal s).busOut = s.busOut := rfl
@[simp] theorem raiseIllegal_envIn (s : State) : (raiseIllegal s).envIn = s.envIn := rfl
@[simp] theorem raiseIllegal_txns (s : State) : (raiseIllegal s).txns = s.txns := rfl
@[simp] theorem raiseIllegal_txEpoch (s : State) : (raiseIllegal s).txEpoch = s.txEpoch := rfl
@[simp] theorem raiseIllegal_rxEpoch (s : State) : (raiseIllegal s).rxEpoch = s.rxEpoch := rfl
@[simp] theorem raiseIllegal_trace (s : State) : (raiseIllegal s).trace = s.trace := rfl

@[simp] theorem failTransceive_cfg (s : State) : (failTransceive s).cfg = s.cfg := rfl
@[simp] theorem failTransceive_cmd (s : State) : (failTransceive s).cmd = s.cmd := rfl
@[simp] theorem failTransceive_status (s : State) : (failTransceive s).status = s.status.failed true .transport := rfl
@[simp] theorem failTransceive_ctrl (s : State) : (failTransceive s).ctrl = s.ctrl := rfl
@[simp] theorem failTransceive_arg0 (s : State) : (failTransceive s).arg0 = s.arg0 := rfl
@[simp] theorem failTransceive_arg1 (s : State) : (failTransceive s).arg1 = s.arg1 := rfl
@[simp] theorem failTransceive_arg2 (s : State) : (failTransceive s).arg2 = s.arg2 := rfl
@[simp] theorem failTransceive_result (s : State) : (failTransceive s).result = 0 := rfl
@[simp] theorem failTransceive_mem (s : State) : (failTransceive s).mem = s.mem.dropRx := rfl
@[simp] theorem failTransceive_seq (s : State) : (failTransceive s).seq = Seq.idle := rfl
@[simp] theorem failTransceive_hostIn (s : State) : (failTransceive s).hostIn = s.hostIn := rfl
@[simp] theorem failTransceive_busOut (s : State) : (failTransceive s).busOut = s.busOut := rfl
@[simp] theorem failTransceive_envIn (s : State) : (failTransceive s).envIn = s.envIn := rfl
@[simp] theorem failTransceive_txns (s : State) : (failTransceive s).txns = s.txns := rfl
@[simp] theorem failTransceive_txEpoch (s : State) : (failTransceive s).txEpoch = s.txEpoch := rfl
@[simp] theorem failTransceive_rxEpoch (s : State) : (failTransceive s).rxEpoch = s.rxEpoch + 1 := rfl
@[simp] theorem failTransceive_trace (s : State) : (failTransceive s).trace = s.trace := rfl

@[simp] theorem goto_cfg (sp : Sp) (s : State) : (goto sp s).cfg = s.cfg := rfl
@[simp] theorem goto_cmd (sp : Sp) (s : State) : (goto sp s).cmd = s.cmd := rfl
@[simp] theorem goto_status (sp : Sp) (s : State) : (goto sp s).status = s.status := rfl
@[simp] theorem goto_ctrl (sp : Sp) (s : State) : (goto sp s).ctrl = s.ctrl := rfl
@[simp] theorem goto_arg0 (sp : Sp) (s : State) : (goto sp s).arg0 = s.arg0 := rfl
@[simp] theorem goto_arg1 (sp : Sp) (s : State) : (goto sp s).arg1 = s.arg1 := rfl
@[simp] theorem goto_arg2 (sp : Sp) (s : State) : (goto sp s).arg2 = s.arg2 := rfl
@[simp] theorem goto_result (sp : Sp) (s : State) : (goto sp s).result = s.result := rfl
@[simp] theorem goto_mem (sp : Sp) (s : State) : (goto sp s).mem = s.mem := rfl
@[simp] theorem goto_seq (sp : Sp) (s : State) : (goto sp s).seq = { s.seq with sp := sp } := rfl
@[simp] theorem goto_hostIn (sp : Sp) (s : State) : (goto sp s).hostIn = s.hostIn := rfl
@[simp] theorem goto_busOut (sp : Sp) (s : State) : (goto sp s).busOut = s.busOut := rfl
@[simp] theorem goto_envIn (sp : Sp) (s : State) : (goto sp s).envIn = s.envIn := rfl
@[simp] theorem goto_txns (sp : Sp) (s : State) : (goto sp s).txns = s.txns := rfl
@[simp] theorem goto_txEpoch (sp : Sp) (s : State) : (goto sp s).txEpoch = s.txEpoch := rfl
@[simp] theorem goto_rxEpoch (sp : Sp) (s : State) : (goto sp s).rxEpoch = s.rxEpoch := rfl
@[simp] theorem goto_trace (sp : Sp) (s : State) : (goto sp s).trace = s.trace := rfl

@[simp] theorem answered_cfg (ev : PortEvent) (s : State) : (answered ev s).cfg = s.cfg := rfl
@[simp] theorem answered_cmd (ev : PortEvent) (s : State) : (answered ev s).cmd = s.cmd := rfl
@[simp] theorem answered_status (ev : PortEvent) (s : State) : (answered ev s).status = s.status := rfl
@[simp] theorem answered_ctrl (ev : PortEvent) (s : State) : (answered ev s).ctrl = s.ctrl := rfl
@[simp] theorem answered_arg0 (ev : PortEvent) (s : State) : (answered ev s).arg0 = s.arg0 := rfl
@[simp] theorem answered_arg1 (ev : PortEvent) (s : State) : (answered ev s).arg1 = s.arg1 := rfl
@[simp] theorem answered_arg2 (ev : PortEvent) (s : State) : (answered ev s).arg2 = s.arg2 := rfl
@[simp] theorem answered_result (ev : PortEvent) (s : State) : (answered ev s).result = s.result := rfl
@[simp] theorem answered_mem (ev : PortEvent) (s : State) : (answered ev s).mem = s.mem := rfl
@[simp] theorem answered_seq (ev : PortEvent) (s : State) : (answered ev s).seq = s.seq := rfl
@[simp] theorem answered_hostIn (ev : PortEvent) (s : State) : (answered ev s).hostIn = s.hostIn := rfl
@[simp] theorem answered_busOut (ev : PortEvent) (s : State) : (answered ev s).busOut = s.busOut := rfl
@[simp] theorem answered_envIn (ev : PortEvent) (s : State) : (answered ev s).envIn = s.envIn.tail := rfl
@[simp] theorem answered_txns (ev : PortEvent) (s : State) : (answered ev s).txns = s.txns + 1 := rfl
@[simp] theorem answered_txEpoch (ev : PortEvent) (s : State) : (answered ev s).txEpoch = s.txEpoch := rfl
@[simp] theorem answered_rxEpoch (ev : PortEvent) (s : State) : (answered ev s).rxEpoch = s.rxEpoch := rfl
@[simp] theorem answered_trace (ev : PortEvent) (s : State) : (answered ev s).trace = ev :: s.trace := rfl

@[simp] theorem waited_cfg (ev : PortEvent) (s : State) : (waited ev s).cfg = s.cfg := rfl
@[simp] theorem waited_cmd (ev : PortEvent) (s : State) : (waited ev s).cmd = s.cmd := rfl
@[simp] theorem waited_status (ev : PortEvent) (s : State) : (waited ev s).status = s.status := rfl
@[simp] theorem waited_ctrl (ev : PortEvent) (s : State) : (waited ev s).ctrl = s.ctrl := rfl
@[simp] theorem waited_arg0 (ev : PortEvent) (s : State) : (waited ev s).arg0 = s.arg0 := rfl
@[simp] theorem waited_arg1 (ev : PortEvent) (s : State) : (waited ev s).arg1 = s.arg1 := rfl
@[simp] theorem waited_arg2 (ev : PortEvent) (s : State) : (waited ev s).arg2 = s.arg2 := rfl
@[simp] theorem waited_result (ev : PortEvent) (s : State) : (waited ev s).result = s.result := rfl
@[simp] theorem waited_mem (ev : PortEvent) (s : State) : (waited ev s).mem = s.mem := rfl
@[simp] theorem waited_seq (ev : PortEvent) (s : State) : (waited ev s).seq = s.seq := rfl
@[simp] theorem waited_hostIn (ev : PortEvent) (s : State) : (waited ev s).hostIn = s.hostIn := rfl
@[simp] theorem waited_busOut (ev : PortEvent) (s : State) : (waited ev s).busOut = s.busOut := rfl
@[simp] theorem waited_envIn (ev : PortEvent) (s : State) : (waited ev s).envIn = s.envIn := rfl
@[simp] theorem waited_txns (ev : PortEvent) (s : State) : (waited ev s).txns = s.txns := rfl
@[simp] theorem waited_txEpoch (ev : PortEvent) (s : State) : (waited ev s).txEpoch = s.txEpoch := rfl
@[simp] theorem waited_rxEpoch (ev : PortEvent) (s : State) : (waited ev s).rxEpoch = s.rxEpoch := rfl
@[simp] theorem waited_trace (ev : PortEvent) (s : State) : (waited ev s).trace = ev :: s.trace := rfl

@[simp] theorem holdV_cfg (sp : Sp) (v : Byte) (s : State) : (holdV sp v s).cfg = s.cfg := rfl
@[simp] theorem holdV_cmd (sp : Sp) (v : Byte) (s : State) : (holdV sp v s).cmd = s.cmd := rfl
@[simp] theorem holdV_status (sp : Sp) (v : Byte) (s : State) : (holdV sp v s).status = s.status := rfl
@[simp] theorem holdV_ctrl (sp : Sp) (v : Byte) (s : State) : (holdV sp v s).ctrl = s.ctrl := rfl
@[simp] theorem holdV_arg0 (sp : Sp) (v : Byte) (s : State) : (holdV sp v s).arg0 = s.arg0 := rfl
@[simp] theorem holdV_arg1 (sp : Sp) (v : Byte) (s : State) : (holdV sp v s).arg1 = s.arg1 := rfl
@[simp] theorem holdV_arg2 (sp : Sp) (v : Byte) (s : State) : (holdV sp v s).arg2 = s.arg2 := rfl
@[simp] theorem holdV_result (sp : Sp) (v : Byte) (s : State) : (holdV sp v s).result = s.result := rfl
@[simp] theorem holdV_mem (sp : Sp) (v : Byte) (s : State) : (holdV sp v s).mem = s.mem := rfl
@[simp] theorem holdV_seq (sp : Sp) (v : Byte) (s : State) : (holdV sp v s).seq = { s.seq with v := v, sp := sp } := rfl
@[simp] theorem holdV_hostIn (sp : Sp) (v : Byte) (s : State) : (holdV sp v s).hostIn = s.hostIn := rfl
@[simp] theorem holdV_busOut (sp : Sp) (v : Byte) (s : State) : (holdV sp v s).busOut = s.busOut := rfl
@[simp] theorem holdV_envIn (sp : Sp) (v : Byte) (s : State) : (holdV sp v s).envIn = s.envIn := rfl
@[simp] theorem holdV_txns (sp : Sp) (v : Byte) (s : State) : (holdV sp v s).txns = s.txns := rfl
@[simp] theorem holdV_txEpoch (sp : Sp) (v : Byte) (s : State) : (holdV sp v s).txEpoch = s.txEpoch := rfl
@[simp] theorem holdV_rxEpoch (sp : Sp) (v : Byte) (s : State) : (holdV sp v s).rxEpoch = s.rxEpoch := rfl
@[simp] theorem holdV_trace (sp : Sp) (v : Byte) (s : State) : (holdV sp v s).trace = s.trace := rfl

@[simp] theorem setK_cfg (k : Nat) (s : State) : (setK k s).cfg = s.cfg := rfl
@[simp] theorem setK_cmd (k : Nat) (s : State) : (setK k s).cmd = s.cmd := rfl
@[simp] theorem setK_status (k : Nat) (s : State) : (setK k s).status = s.status := rfl
@[simp] theorem setK_ctrl (k : Nat) (s : State) : (setK k s).ctrl = s.ctrl := rfl
@[simp] theorem setK_arg0 (k : Nat) (s : State) : (setK k s).arg0 = s.arg0 := rfl
@[simp] theorem setK_arg1 (k : Nat) (s : State) : (setK k s).arg1 = s.arg1 := rfl
@[simp] theorem setK_arg2 (k : Nat) (s : State) : (setK k s).arg2 = s.arg2 := rfl
@[simp] theorem setK_result (k : Nat) (s : State) : (setK k s).result = s.result := rfl
@[simp] theorem setK_mem (k : Nat) (s : State) : (setK k s).mem = s.mem := rfl
@[simp] theorem setK_seq (k : Nat) (s : State) : (setK k s).seq = { s.seq with k := k } := rfl
@[simp] theorem setK_hostIn (k : Nat) (s : State) : (setK k s).hostIn = s.hostIn := rfl
@[simp] theorem setK_busOut (k : Nat) (s : State) : (setK k s).busOut = s.busOut := rfl
@[simp] theorem setK_envIn (k : Nat) (s : State) : (setK k s).envIn = s.envIn := rfl
@[simp] theorem setK_txns (k : Nat) (s : State) : (setK k s).txns = s.txns := rfl
@[simp] theorem setK_txEpoch (k : Nat) (s : State) : (setK k s).txEpoch = s.txEpoch := rfl
@[simp] theorem setK_rxEpoch (k : Nat) (s : State) : (setK k s).rxEpoch = s.rxEpoch := rfl
@[simp] theorem setK_trace (k : Nat) (s : State) : (setK k s).trace = s.trace := rfl

@[simp] theorem holdPair_cfg (p d : Byte) (s : State) : (holdPair p d s).cfg = s.cfg := rfl
@[simp] theorem holdPair_cmd (p d : Byte) (s : State) : (holdPair p d s).cmd = s.cmd := rfl
@[simp] theorem holdPair_status (p d : Byte) (s : State) : (holdPair p d s).status = s.status := rfl
@[simp] theorem holdPair_ctrl (p d : Byte) (s : State) : (holdPair p d s).ctrl = s.ctrl := rfl
@[simp] theorem holdPair_arg0 (p d : Byte) (s : State) : (holdPair p d s).arg0 = s.arg0 := rfl
@[simp] theorem holdPair_arg1 (p d : Byte) (s : State) : (holdPair p d s).arg1 = s.arg1 := rfl
@[simp] theorem holdPair_arg2 (p d : Byte) (s : State) : (holdPair p d s).arg2 = s.arg2 := rfl
@[simp] theorem holdPair_result (p d : Byte) (s : State) : (holdPair p d s).result = s.result := rfl
@[simp] theorem holdPair_mem (p d : Byte) (s : State) : (holdPair p d s).mem = s.mem := rfl
@[simp] theorem holdPair_seq (p d : Byte) (s : State) : (holdPair p d s).seq = { s.seq with p := p, d := d } := rfl
@[simp] theorem holdPair_hostIn (p d : Byte) (s : State) : (holdPair p d s).hostIn = s.hostIn := rfl
@[simp] theorem holdPair_busOut (p d : Byte) (s : State) : (holdPair p d s).busOut = s.busOut := rfl
@[simp] theorem holdPair_envIn (p d : Byte) (s : State) : (holdPair p d s).envIn = s.envIn := rfl
@[simp] theorem holdPair_txns (p d : Byte) (s : State) : (holdPair p d s).txns = s.txns := rfl
@[simp] theorem holdPair_txEpoch (p d : Byte) (s : State) : (holdPair p d s).txEpoch = s.txEpoch := rfl
@[simp] theorem holdPair_rxEpoch (p d : Byte) (s : State) : (holdPair p d s).rxEpoch = s.rxEpoch := rfl
@[simp] theorem holdPair_trace (p d : Byte) (s : State) : (holdPair p d s).trace = s.trace := rfl

@[simp] theorem completeWithV_cfg (s : State) : (completeWithV s).cfg = s.cfg := rfl
@[simp] theorem completeWithV_cmd (s : State) : (completeWithV s).cmd = s.cmd := rfl
@[simp] theorem completeWithV_status (s : State) : (completeWithV s).status = s.status.completed := rfl
@[simp] theorem completeWithV_ctrl (s : State) : (completeWithV s).ctrl = s.ctrl := rfl
@[simp] theorem completeWithV_arg0 (s : State) : (completeWithV s).arg0 = s.arg0 := rfl
@[simp] theorem completeWithV_arg1 (s : State) : (completeWithV s).arg1 = s.arg1 := rfl
@[simp] theorem completeWithV_arg2 (s : State) : (completeWithV s).arg2 = s.arg2 := rfl
@[simp] theorem completeWithV_result (s : State) : (completeWithV s).result = s.seq.v.setWidth 32 := rfl
@[simp] theorem completeWithV_mem (s : State) : (completeWithV s).mem = s.mem := rfl
@[simp] theorem completeWithV_seq (s : State) : (completeWithV s).seq = Seq.idle := rfl
@[simp] theorem completeWithV_hostIn (s : State) : (completeWithV s).hostIn = s.hostIn := rfl
@[simp] theorem completeWithV_busOut (s : State) : (completeWithV s).busOut = s.busOut := rfl
@[simp] theorem completeWithV_envIn (s : State) : (completeWithV s).envIn = s.envIn := rfl
@[simp] theorem completeWithV_txns (s : State) : (completeWithV s).txns = s.txns := rfl
@[simp] theorem completeWithV_txEpoch (s : State) : (completeWithV s).txEpoch = s.txEpoch := rfl
@[simp] theorem completeWithV_rxEpoch (s : State) : (completeWithV s).rxEpoch = s.rxEpoch := rfl
@[simp] theorem completeWithV_trace (s : State) : (completeWithV s).trace = s.trace := rfl

@[simp] theorem setPhase_cfg (ph : Phase) (s : State) : (setPhase ph s).cfg = s.cfg := rfl
@[simp] theorem setPhase_cmd (ph : Phase) (s : State) : (setPhase ph s).cmd = s.cmd := rfl
@[simp] theorem setPhase_status (ph : Phase) (s : State) : (setPhase ph s).status = { s.status with phase := ph } := rfl
@[simp] theorem setPhase_ctrl (ph : Phase) (s : State) : (setPhase ph s).ctrl = s.ctrl := rfl
@[simp] theorem setPhase_arg0 (ph : Phase) (s : State) : (setPhase ph s).arg0 = s.arg0 := rfl
@[simp] theorem setPhase_arg1 (ph : Phase) (s : State) : (setPhase ph s).arg1 = s.arg1 := rfl
@[simp] theorem setPhase_arg2 (ph : Phase) (s : State) : (setPhase ph s).arg2 = s.arg2 := rfl
@[simp] theorem setPhase_result (ph : Phase) (s : State) : (setPhase ph s).result = s.result := rfl
@[simp] theorem setPhase_mem (ph : Phase) (s : State) : (setPhase ph s).mem = s.mem := rfl
@[simp] theorem setPhase_seq (ph : Phase) (s : State) : (setPhase ph s).seq = s.seq := rfl
@[simp] theorem setPhase_hostIn (ph : Phase) (s : State) : (setPhase ph s).hostIn = s.hostIn := rfl
@[simp] theorem setPhase_busOut (ph : Phase) (s : State) : (setPhase ph s).busOut = s.busOut := rfl
@[simp] theorem setPhase_envIn (ph : Phase) (s : State) : (setPhase ph s).envIn = s.envIn := rfl
@[simp] theorem setPhase_txns (ph : Phase) (s : State) : (setPhase ph s).txns = s.txns := rfl
@[simp] theorem setPhase_txEpoch (ph : Phase) (s : State) : (setPhase ph s).txEpoch = s.txEpoch := rfl
@[simp] theorem setPhase_rxEpoch (ph : Phase) (s : State) : (setPhase ph s).rxEpoch = s.rxEpoch := rfl
@[simp] theorem setPhase_trace (ph : Phase) (s : State) : (setPhase ph s).trace = s.trace := rfl

@[simp] theorem beginStreaming_cfg (s : State) : (beginStreaming s).cfg = s.cfg := rfl
@[simp] theorem beginStreaming_cmd (s : State) : (beginStreaming s).cmd = s.cmd := rfl
@[simp] theorem beginStreaming_status (s : State) : (beginStreaming s).status = { s.status with phase := .streaming } := rfl
@[simp] theorem beginStreaming_ctrl (s : State) : (beginStreaming s).ctrl = s.ctrl := rfl
@[simp] theorem beginStreaming_arg0 (s : State) : (beginStreaming s).arg0 = s.arg0 := rfl
@[simp] theorem beginStreaming_arg1 (s : State) : (beginStreaming s).arg1 = s.arg1 := rfl
@[simp] theorem beginStreaming_arg2 (s : State) : (beginStreaming s).arg2 = s.arg2 := rfl
@[simp] theorem beginStreaming_result (s : State) : (beginStreaming s).result = s.result := rfl
@[simp] theorem beginStreaming_mem (s : State) : (beginStreaming s).mem = s.mem := rfl
@[simp] theorem beginStreaming_seq (s : State) : (beginStreaming s).seq = s.seq := rfl
@[simp] theorem beginStreaming_hostIn (s : State) : (beginStreaming s).hostIn = s.hostIn := rfl
@[simp] theorem beginStreaming_busOut (s : State) : (beginStreaming s).busOut = s.busOut := rfl
@[simp] theorem beginStreaming_envIn (s : State) : (beginStreaming s).envIn = s.envIn := rfl
@[simp] theorem beginStreaming_txns (s : State) : (beginStreaming s).txns = s.txns := rfl
@[simp] theorem beginStreaming_txEpoch (s : State) : (beginStreaming s).txEpoch = s.txEpoch := rfl
@[simp] theorem beginStreaming_rxEpoch (s : State) : (beginStreaming s).rxEpoch = s.rxEpoch := rfl
@[simp] theorem beginStreaming_trace (s : State) : (beginStreaming s).trace = s.trace := rfl

@[simp] theorem beginAwait_cfg (s : State) : (beginAwait s).cfg = s.cfg := rfl
@[simp] theorem beginAwait_cmd (s : State) : (beginAwait s).cmd = s.cmd := rfl
@[simp] theorem beginAwait_status (s : State) : (beginAwait s).status = { s.status with phase := .await } := rfl
@[simp] theorem beginAwait_ctrl (s : State) : (beginAwait s).ctrl = s.ctrl := rfl
@[simp] theorem beginAwait_arg0 (s : State) : (beginAwait s).arg0 = s.arg0 := rfl
@[simp] theorem beginAwait_arg1 (s : State) : (beginAwait s).arg1 = s.arg1 := rfl
@[simp] theorem beginAwait_arg2 (s : State) : (beginAwait s).arg2 = s.arg2 := rfl
@[simp] theorem beginAwait_result (s : State) : (beginAwait s).result = s.result := rfl
@[simp] theorem beginAwait_mem (s : State) : (beginAwait s).mem = s.mem := rfl
@[simp] theorem beginAwait_seq (s : State) : (beginAwait s).seq = { s.seq with polls := 0 } := rfl
@[simp] theorem beginAwait_hostIn (s : State) : (beginAwait s).hostIn = s.hostIn := rfl
@[simp] theorem beginAwait_busOut (s : State) : (beginAwait s).busOut = s.busOut := rfl
@[simp] theorem beginAwait_envIn (s : State) : (beginAwait s).envIn = s.envIn := rfl
@[simp] theorem beginAwait_txns (s : State) : (beginAwait s).txns = s.txns := rfl
@[simp] theorem beginAwait_txEpoch (s : State) : (beginAwait s).txEpoch = s.txEpoch := rfl
@[simp] theorem beginAwait_rxEpoch (s : State) : (beginAwait s).rxEpoch = s.rxEpoch := rfl
@[simp] theorem beginAwait_trace (s : State) : (beginAwait s).trace = s.trace := rfl

@[simp] theorem succeed_cfg (s : State) : (succeed s).cfg = s.cfg := rfl
@[simp] theorem succeed_cmd (s : State) : (succeed s).cmd = s.cmd := rfl
@[simp] theorem succeed_status (s : State) : (succeed s).status = Status.completed { s.status with trunc := truncated s.seq, phase := .success } := rfl
@[simp] theorem succeed_ctrl (s : State) : (succeed s).ctrl = s.ctrl := rfl
@[simp] theorem succeed_arg0 (s : State) : (succeed s).arg0 = s.arg0 := rfl
@[simp] theorem succeed_arg1 (s : State) : (succeed s).arg1 = s.arg1 := rfl
@[simp] theorem succeed_arg2 (s : State) : (succeed s).arg2 = s.arg2 := rfl
@[simp] theorem succeed_result (s : State) : (succeed s).result = BitVec.ofNat 32 s.seq.n := rfl
@[simp] theorem succeed_mem (s : State) : (succeed s).mem = s.mem := rfl
@[simp] theorem succeed_seq (s : State) : (succeed s).seq = Seq.idle := rfl
@[simp] theorem succeed_hostIn (s : State) : (succeed s).hostIn = s.hostIn := rfl
@[simp] theorem succeed_busOut (s : State) : (succeed s).busOut = s.busOut := rfl
@[simp] theorem succeed_envIn (s : State) : (succeed s).envIn = s.envIn := rfl
@[simp] theorem succeed_txns (s : State) : (succeed s).txns = s.txns := rfl
@[simp] theorem succeed_txEpoch (s : State) : (succeed s).txEpoch = s.txEpoch := rfl
@[simp] theorem succeed_rxEpoch (s : State) : (succeed s).rxEpoch = s.rxEpoch := rfl
@[simp] theorem succeed_trace (s : State) : (succeed s).trace = s.trace := rfl

@[simp] theorem accept_cfg (w : Word) (s : State) : (accept w s).cfg = s.cfg := rfl
@[simp] theorem accept_cmd (w : Word) (s : State) : (accept w s).cmd = w := rfl
@[simp] theorem accept_status (w : Word) (s : State) : (accept w s).status = s.status.accepted := rfl
@[simp] theorem accept_ctrl (w : Word) (s : State) : (accept w s).ctrl = s.ctrl := rfl
@[simp] theorem accept_arg0 (w : Word) (s : State) : (accept w s).arg0 = s.arg0 := rfl
@[simp] theorem accept_arg1 (w : Word) (s : State) : (accept w s).arg1 = s.arg1 := rfl
@[simp] theorem accept_arg2 (w : Word) (s : State) : (accept w s).arg2 = s.arg2 := rfl
@[simp] theorem accept_result (w : Word) (s : State) : (accept w s).result = s.result := rfl
@[simp] theorem accept_mem (w : Word) (s : State) : (accept w s).mem = s.mem := rfl
@[simp] theorem accept_seq (w : Word) (s : State) : (accept w s).seq = { Seq.idle with lcmd := w, larg0 := s.arg0, larg1 := s.arg1, larg2 := s.arg2, sp := .op 0 } := rfl
@[simp] theorem accept_hostIn (w : Word) (s : State) : (accept w s).hostIn = s.hostIn := rfl
@[simp] theorem accept_busOut (w : Word) (s : State) : (accept w s).busOut = s.busOut := rfl
@[simp] theorem accept_envIn (w : Word) (s : State) : (accept w s).envIn = s.envIn := rfl
@[simp] theorem accept_txns (w : Word) (s : State) : (accept w s).txns = s.txns := rfl
@[simp] theorem accept_txEpoch (w : Word) (s : State) : (accept w s).txEpoch = s.txEpoch := rfl
@[simp] theorem accept_rxEpoch (w : Word) (s : State) : (accept w s).rxEpoch = s.rxEpoch := rfl
@[simp] theorem accept_trace (w : Word) (s : State) : (accept w s).trace = s.trace := rfl

@[simp] theorem blockReset_cfg (s : State) : (blockReset s).cfg = s.cfg := rfl
@[simp] theorem blockReset_cmd (s : State) : (blockReset s).cmd = 0 := rfl
@[simp] theorem blockReset_status (s : State) : (blockReset s).status = Status.reset := rfl
@[simp] theorem blockReset_ctrl (s : State) : (blockReset s).ctrl = Ctrl.reset := rfl
@[simp] theorem blockReset_arg0 (s : State) : (blockReset s).arg0 = 0 := rfl
@[simp] theorem blockReset_arg1 (s : State) : (blockReset s).arg1 = 0 := rfl
@[simp] theorem blockReset_arg2 (s : State) : (blockReset s).arg2 = 0 := rfl
@[simp] theorem blockReset_result (s : State) : (blockReset s).result = 0 := rfl
@[simp] theorem blockReset_mem (s : State) : (blockReset s).mem = [] := rfl
@[simp] theorem blockReset_seq (s : State) : (blockReset s).seq = Seq.idle := rfl
@[simp] theorem blockReset_hostIn (s : State) : (blockReset s).hostIn = s.hostIn := rfl
@[simp] theorem blockReset_busOut (s : State) : (blockReset s).busOut = s.busOut := rfl
@[simp] theorem blockReset_envIn (s : State) : (blockReset s).envIn = s.envIn := rfl
@[simp] theorem blockReset_txns (s : State) : (blockReset s).txns = s.txns := rfl
@[simp] theorem blockReset_txEpoch (s : State) : (blockReset s).txEpoch = s.txEpoch + 1 := rfl
@[simp] theorem blockReset_rxEpoch (s : State) : (blockReset s).rxEpoch = s.rxEpoch + 1 := rfl
@[simp] theorem blockReset_trace (s : State) : (blockReset s).trace = s.trace := rfl

/-! ## The registers as words -/

/-- STATUS as a word, by the places of R25. -/
theorem Status.toWord_toNat (st : Status) : st.toWord.toNat = st.busy.toNat + 2 * st.done.toNat + 4 * st.err.toNat +
    8 * st.trunc.toNat + 16 * st.cmdOvr.toNat + 256 * st.ecode.code.toNat + 4096 * st.phase.code.toNat := by
  have h : st.toWord.toNat = (0#17 ++ st.phase.code ++ st.ecode.code ++ 0#3 ++ BitVec.ofBool st.cmdOvr ++
      BitVec.ofBool st.trunc ++ BitVec.ofBool st.err ++ BitVec.ofBool st.done ++ BitVec.ofBool st.busy).toNat := rfl
  have hp := st.phase.code.isLt
  have he := st.ecode.code.isLt
  have two (n k b : Nat) (hb : b < 2 ^ k) : n <<< k ||| b = n * 2 ^ k + b := by
    rw [Nat.shiftLeft_eq, Nat.mul_comm, Nat.two_pow_add_eq_or_of_lt hb]
  rw [h]
  simp only [BitVec.toNat_append]
  rw [two _ 1 _ (BitVec.isLt _), two _ 1 _ (BitVec.isLt _), two _ 1 _ (BitVec.isLt _), two _ 1 _ (BitVec.isLt _),
    two _ 1 _ (BitVec.isLt _), two _ 3 _ (BitVec.isLt _), two _ 4 _ (BitVec.isLt _), two _ 3 _ (BitVec.isLt _)]
  simp; omega

/-- CTRL as a word, by the places of R32. -/
theorem Ctrl.toWord_toNat (c : Ctrl) : c.toWord.toNat = c.crcAbort.toNat + 2 * c.surplusFlush.toNat + 4 * c.irqEn.toNat := by
  obtain ⟨a, b, d⟩ := c
  cases a <;> cases b <;> cases d <;> rfl

/-- ECODE stands in STATUS[11:8]. -/
theorem Status.toWord_ecode (st : Status) : st.toWord.extractLsb' 8 4 = st.ecode.code := by
  have hp := st.phase.code.isLt
  have he := st.ecode.code.isLt
  apply BitVec.eq_of_toNat_eq
  have := Bool.toNat_lt st.busy
  have := Bool.toNat_lt st.done
  have := Bool.toNat_lt st.err
  have := Bool.toNat_lt st.trunc
  have := Bool.toNat_lt st.cmdOvr
  rw [BitVec.extractLsb'_toNat, Status.toWord_toNat, Nat.shiftRight_eq_div_pow]
  omega

/-- PHASE stands in STATUS[14:12]. -/
theorem Status.toWord_phase (st : Status) : st.toWord.extractLsb' 12 3 = st.phase.code := by
  have hp := st.phase.code.isLt
  have he := st.ecode.code.isLt
  apply BitVec.eq_of_toNat_eq
  have := Bool.toNat_lt st.busy
  have := Bool.toNat_lt st.done
  have := Bool.toNat_lt st.err
  have := Bool.toNat_lt st.trunc
  have := Bool.toNat_lt st.cmdOvr
  rw [BitVec.extractLsb'_toNat, Status.toWord_toNat, Nat.shiftRight_eq_div_pow]
  omega

end Sys2Proof.Machine
end

