-- ==== Sys2Proof/Laws/Memory.lean ====
section
/-! SUPPORT. The laws of the buffers: read after write, and that every operation keeps the canonical form. -/

namespace Sys2Proof.Machine

open Sys2Proof.Safety

/-! ## One byte -/

theorem Memory.read_write_self (m : Memory) (a : Nat) (v : Byte) : (m.write a v).read a = some v := by
  induction m with
  | nil => simp [Memory.write, Memory.read]
  | cons cell rest ih =>
    obtain ⟨b, w⟩ := cell
    unfold Memory.write
    split
    · simp [Memory.read]
    · split
      · simp [Memory.read]
      · rename_i h
        simp [Memory.read, h, ih]

theorem Memory.read_write_other (m : Memory) {a b : Nat} (v : Byte) (h : b ≠ a) :
    (m.write a v).read b = m.read b := by
  induction m with
  | nil => simp [Memory.write, Memory.read, h]
  | cons cell rest ih =>
    obtain ⟨c, w⟩ := cell
    unfold Memory.write
    split
    · simp [Memory.read, h]
    · split
      · rename_i hc
        subst hc
        simp [Memory.read, h]
      · simp [Memory.read, ih]

theorem Memory.all_write (p : Host.Cell → Bool) (m : Memory) (a : Nat) (v : Byte) (hp : p (a, v) = true)
    (hm : m.all p = true) : (m.write a v).all p = true := by
  induction m with
  | nil => simp [Memory.write, hp]
  | cons cell rest ih =>
    obtain ⟨b, w⟩ := cell
    simp only [List.all_cons, Bool.and_eq_true] at hm
    unfold Memory.write
    split
    · simp [hp, hm.1, hm.2]
    · split
      · simp [hp, hm.2]
      · simp [hm.1, ih hm.2]

theorem Memory.wf_cons {a : Nat} {v : Byte} {rest : Memory} :
    Memory.wf ((a, v) :: rest) = true ↔ (∀ cell ∈ rest, a < cell.1) ∧ rest.wf = true := by
  simp [Memory.wf]

theorem Memory.wf_write (m : Memory) (a : Nat) (v : Byte) (h : m.wf = true) : (m.write a v).wf = true := by
  induction m with
  | nil => simp [Memory.write, Memory.wf]
  | cons cell rest ih =>
    obtain ⟨b, w⟩ := cell
    obtain ⟨hlt, hrest⟩ := Memory.wf_cons.1 h
    unfold Memory.write
    split
    · rename_i hab
      refine Memory.wf_cons.2 ⟨?_, h⟩
      intro cell hcell
      rcases List.mem_cons.1 hcell with rfl | hin
      · exact hab
      · exact Nat.lt_trans hab (hlt cell hin)
    · split
      · rename_i hab
        subst hab
        exact Memory.wf_cons.2 ⟨hlt, hrest⟩
      · rename_i h1 h2
        refine Memory.wf_cons.2 ⟨?_, ih hrest⟩
        have hall := Memory.all_write (fun cell => decide (b < cell.1)) rest a v
          (decide_eq_true (by omega)) (by simpa using hlt)
        simpa using hall

/-! ## Runs of bytes -/

theorem Memory.wf_writeBytes (m : Memory) (a : Nat) (bs : List Byte) (h : m.wf = true) :
    (m.writeBytes a bs).wf = true := by
  induction bs generalizing m a with
  | nil => exact h
  | cons v vs ih => exact ih _ _ (Memory.wf_write m a v h)

theorem Memory.all_writeBytes (p : Host.Cell → Bool) (m : Memory) (a : Nat) (bs : List Byte)
    (hp : ∀ i v, i < bs.length → p (a + i, v) = true) (hm : m.all p = true) :
    (m.writeBytes a bs).all p = true := by
  induction bs generalizing m a with
  | nil => exact hm
  | cons v vs ih =>
    refine ih _ _ ?_ (Memory.all_write p m a v (by simpa using hp 0 v (by simp)) hm)
    intro i w hi
    have := hp (i + 1) w (by simpa using hi)
    rwa [show a + 1 + i = a + (i + 1) by omega]

theorem Memory.read_writeBytes_outside (m : Memory) (a : Nat) (bs : List Byte) {b : Nat}
    (h : b < a ∨ a + bs.length ≤ b) : (m.writeBytes a bs).read b = m.read b := by
  induction bs generalizing m a with
  | nil => rfl
  | cons v vs ih =>
    simp only [List.length_cons] at h
    rw [Memory.writeBytes, ih _ _ (by omega), Memory.read_write_other _ _ (by omega)]

theorem Memory.read_writeBytes_inside (m : Memory) (a : Nat) (bs : List Byte) {i : Nat} (h : i < bs.length) :
    (m.writeBytes a bs).read (a + i) = some bs[i] := by
  induction bs generalizing m a i with
  | nil => simp at h
  | cons v vs ih =>
    rw [Memory.writeBytes]
    cases i with
    | zero => rw [Memory.read_writeBytes_outside _ _ _ (by omega)]; exact Memory.read_write_self m a v
    | succ j =>
      rw [show a + (j + 1) = a + 1 + j by omega, ih _ _ (by simpa using h)]
      simp

/-! ## RXBUF forgotten -/

theorem Memory.read_dropRx (m : Memory) (a : Nat) :
    m.dropRx.read a = if inRxBuf a then none else m.read a := by
  induction m with
  | nil => simp [Memory.dropRx, Memory.read]
  | cons cell rest ih =>
    obtain ⟨b, w⟩ := cell
    simp only [Memory.dropRx, List.filter_cons] at ih ⊢
    by_cases hb : inRxBuf b = true
    · simp only [hb, Bool.not_true, Bool.false_eq_true, if_false, ih, Memory.read]
      by_cases hab : a = b
      · subst hab; simp [hb]
      · simp [hab]
    · simp only [hb, Bool.not_false, if_true, Memory.read, ih]
      by_cases hab : a = b
      · subst hab; simp [hb]
      · simp [hab]

theorem Memory.wf_dropRx (m : Memory) (h : m.wf = true) : m.dropRx.wf = true := by
  induction m with
  | nil => exact h
  | cons cell rest ih =>
    obtain ⟨b, w⟩ := cell
    obtain ⟨hlt, hrest⟩ := Memory.wf_cons.1 h
    simp only [Memory.dropRx, List.filter_cons]
    split
    · refine Memory.wf_cons.2 ⟨?_, ih hrest⟩
      intro cell hcell
      exact hlt cell (List.mem_filter.1 hcell).1
    · exact ih hrest

theorem Memory.inBuffers_dropRx (m : Memory) (h : m.inBuffers = true) : m.dropRx.inBuffers = true := by
  simp only [Memory.inBuffers, Memory.dropRx, List.all_eq_true] at h ⊢
  intro cell hcell
  exact h cell (List.mem_filter.1 hcell).1

theorem Memory.inBuffers_writeBytes (m : Memory) (a : Nat) (bs : List Byte)
    (ha : ∀ i, i < bs.length → inTxBuf (a + i) = true ∨ inRxBuf (a + i) = true) (h : m.inBuffers = true) :
    (m.writeBytes a bs).inBuffers = true := by
  refine Memory.all_writeBytes _ m a bs ?_ h
  intro i v hi
  simpa using ha i hi

/-! ## What a buffer byte reads as -/

theorem inTxBuf_iff {a : Nat} : inTxBuf a = true ↔ 0x100 ≤ a ∧ a < 0x200 := by
  simp [inTxBuf]

theorem inRxBuf_iff {a : Nat} : inRxBuf a = true ↔ 0x200 ≤ a ∧ a < 0x300 := by
  simp [inRxBuf]

theorem not_inRxBuf_iff {a : Nat} : inRxBuf a = false ↔ a < 0x200 ∨ 0x300 ≤ a := by
  rw [← Bool.not_eq_true, inRxBuf_iff]
  omega

theorem inTxBuf_not_inRxBuf {a : Nat} (h : inTxBuf a = true) : inRxBuf a = false := by
  rw [inTxBuf_iff] at h
  rw [not_inRxBuf_iff]
  omega

theorem inTxBuf_txAddr {k : Nat} (h : k < 256) : inTxBuf (txAddr k) = true := by
  rw [inTxBuf_iff, txAddr]
  omega

theorem inRxBuf_rxAddr {k : Nat} (h : k < 256) : inRxBuf (rxAddr k) = true := by
  rw [inRxBuf_iff, rxAddr]
  omega

/-- A byte reads the same in two states that agree on the cells and on the epochs. -/
theorem State.bufByte_congr {s t : State} (hm : t.mem = s.mem) (ht : t.txEpoch = s.txEpoch)
    (hr : t.rxEpoch = s.rxEpoch) (a : Nat) : t.bufByte a = s.bufByte a := by
  simp [State.bufByte, hm, ht, hr]

/-- Outside RXBUF a byte reads the same where the cells there and TXBUF's epoch are the same. -/
theorem State.bufByte_congr_outside {s t : State} {a : Nat} (ha : inRxBuf a = false)
    (hm : t.mem.read a = s.mem.read a) (ht : t.txEpoch = s.txEpoch) : t.bufByte a = s.bufByte a := by
  simp [State.bufByte, hm, ht, ha]

theorem forgetRx_bufByte (s : State) {a : Nat} (ha : inRxBuf a = false) : (forgetRx s).bufByte a = s.bufByte a :=
  State.bufByte_congr_outside ha (by simp [Memory.read_dropRx, ha]) (by simp)

/-- The drain changes no byte outside RXBUF. -/
theorem storeRx_bufByte_outside (bytes : List Byte) (s : State) {a : Nat} (ha : inRxBuf a = false) :
    (storeRx bytes s).bufByte a = s.bufByte a := by
  refine State.bufByte_congr_outside ha ?_ (by simp)
  have hout : a < rxAddr 0 ∨ rxAddr 0 + (bytes.take 256).length ≤ a := by
    rw [not_inRxBuf_iff] at ha
    rw [rxAddr, List.length_take]
    omega
  simp only [storeRx_mem]
  rw [Memory.read_writeBytes_outside _ _ _ hout, Memory.read_dropRx]
  simp [ha]

/-- The drain's bytes stand in RXBUF in order, and nothing else does. -/
theorem storeRx_holdsAnswer (bytes : List Byte) (s : State) : HoldsAnswer (storeRx bytes s) bytes := by
  intro k hk
  show (storeRx bytes s).mem.read (rxAddr 0 + k) = bytes[k]?
  rw [storeRx_mem]
  rcases Nat.lt_or_ge k bytes.length with h | h
  · rw [Memory.read_writeBytes_inside _ _ _ (by rw [List.length_take]; omega)]
    simp [h]
  · rw [Memory.read_writeBytes_outside _ _ _ (by rw [List.length_take]; omega), Memory.read_dropRx,
      show inRxBuf (rxAddr 0 + k) = true from inRxBuf_rxAddr hk, List.getElem?_eq_none h]
    rfl

/-- The drain keeps the canonical form of the buffers' cells. -/
theorem storeRx_wf (bytes : List Byte) (s : State) (h : s.mem.wf = true) : (storeRx bytes s).mem.wf = true :=
  Memory.wf_writeBytes _ _ _ (Memory.wf_dropRx _ h)

/-- The drain writes no cell outside the buffers. -/
theorem storeRx_inBuffers (bytes : List Byte) (s : State) (h : s.mem.inBuffers = true) :
    (storeRx bytes s).mem.inBuffers = true := by
  refine Memory.inBuffers_writeBytes _ _ _ (fun i hi => .inr ?_) (Memory.inBuffers_dropRx _ h)
  rw [List.length_take] at hi
  rw [inRxBuf_iff, rxAddr]
  omega

@[simp] theorem State.txBytes_length (s : State) (off n : Nat) : (s.txBytes off n).length = n := by
  simp [State.txBytes]

@[simp] theorem State.answerBytes_length (s : State) (bytes : List Byte) (n : Nat) :
    (s.answerBytes bytes n).length = n := by
  simp [State.answerBytes]

end Sys2Proof.Machine
end

