-- ==== Sys2Proof/Laws/Ops.lean ====
section
/-! SUPPORT. What each shared operation can do, once: the transactions, the end of a command, the listings and the
steps of TRANSCEIVE. -/

namespace Sys2Proof.Machine

open Sys2Proof.Safety

/-! ## ENV's answers -/

theorem State.nextAnswer_cons {s : State} {a : Answer} {rest : List Answer} (h : s.envIn = a :: rest) :
    s.nextAnswer = a := by
  simp [State.nextAnswer, h]

theorem State.nextAnswer_congr {s t : State} (h : t.envIn = s.envIn) (ht : t.txns = s.txns) :
    t.nextAnswer = s.nextAnswer := by
  simp [State.nextAnswer, h, ht]

@[simp] theorem State.answerByte_cons_zero (s : State) (v : Byte) (vs : List Byte) : s.answerByte (v :: vs) 0 = v := rfl

theorem State.answerBytes_of_length {s : State} {bytes : List Byte} {n : Nat} (h : bytes.length = n) :
    s.answerBytes bytes n = bytes := by
  apply List.ext_getElem
  · simp [h]
  · intro i h1 h2
    simp [State.answerBytes, State.answerByte, h2]

/-! ## The four transactions -/

theorem regRead_of_ok {slot a v : Byte} {vs : List Byte} {onFail : State → State} {onOk : Byte → State → State}
    {s : State} {rest : List Answer} (h : s.envIn = .ok (v :: vs) :: rest) :
    regRead slot a onFail onOk s = onOk v (answered (.regRead slot a (some v)) s) := by
  simp [regRead, State.nextAnswer_cons h]

theorem regRead_of_fail {slot a : Byte} {onFail : State → State} {onOk : Byte → State → State} {s : State}
    (h : s.nextAnswer = .fail) : regRead slot a onFail onOk s = onFail (answered (.regRead slot a none) s) := by
  simp [regRead, h]

/-- A register read either fails, or answers some byte. -/
theorem regRead_cases (slot a : Byte) (onFail : State → State) (onOk : Byte → State → State) (s : State) :
    (s.nextAnswer = .fail ∧ regRead slot a onFail onOk s = onFail (answered (.regRead slot a none) s)) ∨
    (s.nextAnswer ≠ .fail ∧
      ∃ v, regRead slot a onFail onOk s = onOk v (answered (.regRead slot a (some v)) s)) := by
  unfold regRead
  cases h : s.nextAnswer with
  | fail => exact .inl ⟨rfl, rfl⟩
  | ok bytes => exact .inr ⟨by simp, _, rfl⟩

theorem regWrite_of_ok {slot a v : Byte} {onFail onOk : State → State} {s : State} {b : List Byte}
    {rest : List Answer} (h : s.envIn = .ok b :: rest) :
    regWrite slot a v onFail onOk s = onOk (answered (.regWrite slot a v true) s) := by
  simp [regWrite, State.nextAnswer_cons h]

theorem regWrite_of_fail {slot a v : Byte} {onFail onOk : State → State} {s : State} (h : s.nextAnswer = .fail) :
    regWrite slot a v onFail onOk s = onFail (answered (.regWrite slot a v false) s) := by
  simp [regWrite, h]

/-- A register write either fails or succeeds. -/
theorem regWrite_cases (slot a v : Byte) (onFail onOk : State → State) (s : State) :
    (s.nextAnswer = .fail ∧ regWrite slot a v onFail onOk s = onFail (answered (.regWrite slot a v false) s)) ∨
    (s.nextAnswer ≠ .fail ∧ regWrite slot a v onFail onOk s = onOk (answered (.regWrite slot a v true) s)) := by
  unfold regWrite
  cases h : s.nextAnswer with
  | fail => exact .inl ⟨rfl, rfl⟩
  | ok bytes => exact .inr ⟨by simp, rfl⟩

theorem fifoWrite_of_ok {slot : Byte} {bytes : List Byte} {onFail onOk : State → State} {s : State} {b : List Byte}
    {rest : List Answer} (h : s.envIn = .ok b :: rest) :
    fifoWrite slot bytes onFail onOk s = onOk (answered (.fifoWrite slot bytes true) s) := by
  simp [fifoWrite, State.nextAnswer_cons h]

/-- A FIFO write either fails or succeeds. -/
theorem fifoWrite_cases (slot : Byte) (bytes : List Byte) (onFail onOk : State → State) (s : State) :
    (s.nextAnswer = .fail ∧ fifoWrite slot bytes onFail onOk s = onFail (answered (.fifoWrite slot bytes false) s)) ∨
    (s.nextAnswer ≠ .fail ∧ fifoWrite slot bytes onFail onOk s = onOk (answered (.fifoWrite slot bytes true) s)) := by
  unfold fifoWrite
  cases h : s.nextAnswer with
  | fail => exact .inl ⟨rfl, rfl⟩
  | ok _ => exact .inr ⟨by simp, rfl⟩

theorem fifoRead_of_ok {slot : Byte} {n : Nat} {onFail : State → State} {onOk : List Byte → State → State}
    {s : State} {bytes : List Byte} {rest : List Answer} (h : s.envIn = .ok bytes :: rest)
    (hn : bytes.length = n) :
    fifoRead slot n onFail onOk s = onOk bytes (answered (.fifoRead slot n (some bytes)) s) := by
  simp [fifoRead, State.nextAnswer_cons h, State.answerBytes_of_length hn]

/-- A FIFO read of `n` bytes either fails, or answers `n` bytes. -/
theorem fifoRead_cases (slot : Byte) (n : Nat) (onFail : State → State) (onOk : List Byte → State → State)
    (s : State) :
    (s.nextAnswer = .fail ∧ fifoRead slot n onFail onOk s = onFail (answered (.fifoRead slot n none) s)) ∨
    (s.nextAnswer ≠ .fail ∧ ∃ bytes, bytes.length = n ∧
      fifoRead slot n onFail onOk s = onOk bytes (answered (.fifoRead slot n (some bytes)) s)) := by
  unfold fifoRead
  cases h : s.nextAnswer with
  | fail => exact .inl ⟨rfl, rfl⟩
  | ok bytes => exact .inr ⟨by simp, _, by simp, rfl⟩

/-! ## The end of a command -/

/-- raise Error writes RESULT, STATUS, the hidden state and, in TRANSCEIVE, RXBUF; nothing else. -/
theorem endWithError_spec (b : Bool) (code : ErrCode) (r : Word) (s : State) :
    endWithError b code r s =
      { s with
        mem := if b then s.mem.dropRx else s.mem
        rxEpoch := if b then s.rxEpoch + 1 else s.rxEpoch
        result := r
        status := s.status.failed b code
        seq := Seq.idle } := by
  cases b <;> rfl

theorem complete_keepsHostSide (r : Word) (s : State) : KeepsHostSide s (complete r s) := by
  simp [KeepsHostSide, State.bufByte]

theorem raiseError_keepsHostSide (code : ErrCode) (r : Word) (s : State) : KeepsHostSide s (raiseError code r s) := by
  simp [KeepsHostSide, State.bufByte]

theorem raiseTransceive_keepsHostSide (code : ErrCode) (s : State) : KeepsHostSide s (raiseTransceive code s) := by
  refine ⟨rfl, rfl, rfl, rfl, rfl, rfl, rfl, rfl, rfl, fun a ha => ?_⟩
  exact forgetRx_bufByte s ha

theorem storeRx_keepsHostSide (bytes : List Byte) (s : State) : KeepsHostSide s (storeRx bytes s) := by
  refine ⟨rfl, rfl, rfl, rfl, rfl, rfl, rfl, rfl, rfl, fun a ha => ?_⟩
  exact storeRx_bufByte_outside bytes s ha

/-! ## Listings -/

/-- Everything one step of a listing can do: end the command, wait, read a register, or write one with the table index
where it was or counted. -/
theorem runOps_cases (slot : Byte) (fin : State → State) (ops : List SeqOp) (i : Nat) (s : State) :
    runOps slot fin ops i s = fin s ∨
    (∃ us j, runOps slot fin ops i s = goto (.op j) (waited (.hold us) s)) ∨
    (∃ a r j, runOps slot fin ops i s = regRead slot a (raiseError .transport r) (holdV (.op j)) s) ∨
    (∃ a v r j k, runOps slot fin ops i s =
      regWrite slot a v (raiseError .transport r) (goto (.op j)) (setK k s)) := by
  have plain (a v : Byte) (r : Word) (j : Nat) : ∃ a' v' r' j' k,
      regWrite slot a v (raiseError .transport r) (goto (.op j)) s =
        regWrite slot a' v' (raiseError .transport r') (goto (.op j')) (setK k s) := ⟨a, v, r, j, s.seq.k, rfl⟩
  induction ops generalizing i with
  | nil => exact .inl rfl
  | cons op rest ih =>
    cases op with
    | read a r => exact .inr (.inr (.inl ⟨a, r, i + 1, rfl⟩))
    | write a v => exact .inr (.inr (.inr (plain a v 0 (i + 1))))
    | clearIfSet a m r =>
      cases h : clearedValue s.seq.v m with
      | none => simpa only [runOps, h] using ih (i + 1)
      | some w => simpa only [runOps, h] using .inr (.inr (.inr (plain a w r (i + 1))))
    | setIfClear a m r =>
      cases h : setValue s.seq.v m with
      | none => simpa only [runOps, h] using ih (i + 1)
      | some w => simpa only [runOps, h] using .inr (.inr (.inr (plain a w r (i + 1))))
    | maskIfDiffers a m b r =>
      cases h : maskedValue s.seq.v m b with
      | none => simpa only [runOps, h] using ih (i + 1)
      | some w => simpa only [runOps, h] using .inr (.inr (.inr (plain a w r (i + 1))))
    | table entries =>
      cases h : entries[0]? with
      | none => simpa only [runOps, h] using ih (i + 1)
      | some e => exact .inr (.inr (.inr ⟨e.1, e.2, 0, i + 1, 0, by simp only [runOps, h]⟩))
    | tableNext entries =>
      cases h : entries[s.seq.k + 1]? with
      | none => simpa only [runOps, h] using ih (i + 1)
      | some e => exact .inr (.inr (.inr ⟨e.1, e.2, BitVec.ofNat 32 (s.seq.k + 1), i, s.seq.k + 1, by simp only [runOps, h]⟩))
    | hold us => exact .inr (.inl ⟨us, i + 1, rfl⟩)

/-- The step gives no RESULT of its own where its transaction fails: only the table operations do (60_exceptions.md
R312). -/
def SeqOp.failsWithZero : SeqOp → Bool
  | .read _ r | .clearIfSet _ _ r | .setIfClear _ _ r | .maskIfDiffers _ _ _ r => r == 0
  | .write _ _ | .hold _ => true
  | .table _ | .tableNext _ => false

/-- A failed transaction of a listing of such steps leaves RESULT 0. -/
theorem runOps_fail_result {slot : Byte} {fin : State → State} {ops : List SeqOp} {i : Nat} {s : State}
    (hz : ops.all SeqOp.failsWithZero = true) (hf : s.nextAnswer = .fail) (hfin : (fin s).txns = s.txns)
    (htx : (runOps slot fin ops i s).txns = s.txns + 1) : (runOps slot fin ops i s).result = 0 := by
  induction ops generalizing i with
  | nil => simp [runOps, hfin] at htx
  | cons op rest ih =>
    obtain ⟨hop, hrest⟩ : op.failsWithZero = true ∧ rest.all SeqOp.failsWithZero = true := by simpa using hz
    cases op with
    | read a r => simp [runOps, regRead_of_fail hf, eq_of_beq hop]
    | write a v => simp [runOps, regWrite_of_fail hf]
    | hold us => simp [runOps] at htx
    | table entries => cases hop
    | tableNext entries => cases hop
    | clearIfSet a m r =>
      cases h : clearedValue s.seq.v m with
      | none => simp only [runOps, h] at htx ⊢; exact ih hrest htx
      | some w => simp [runOps, h, regWrite_of_fail hf, eq_of_beq hop]
    | setIfClear a m r =>
      cases h : setValue s.seq.v m with
      | none => simp only [runOps, h] at htx ⊢; exact ih hrest htx
      | some w => simp [runOps, h, regWrite_of_fail hf, eq_of_beq hop]
    | maskIfDiffers a m b r =>
      cases h : maskedValue s.seq.v m b with
      | none => simp only [runOps, h] at htx ⊢; exact ih hrest htx
      | some w => simp [runOps, h, regWrite_of_fail hf, eq_of_beq hop]

/-- The same, from wherever SP points in the listing. -/
theorem runListing_fail_result {slot : Byte} {fin : State → State} {ops : List SeqOp} {s : State}
    (hz : ops.all SeqOp.failsWithZero = true) (hf : s.nextAnswer = .fail) (hfin : (fin s).txns = s.txns)
    (htx : (runListing slot ops fin s).txns = s.txns + 1) : (runListing slot ops fin s).result = 0 := by
  refine runOps_fail_result ?_ hf hfin htx
  simp only [List.all_eq_true] at hz ⊢
  intro op hop
  unfold Sp.rest at hop
  split at hop
  · exact hz op (List.mem_of_mem_drop hop)
  · cases hop

/-- Where SP is step `i` of a listing, a step runs the listing from there on. -/
theorem runListing_at {slot : Byte} {ops : List SeqOp} {fin : State → State} {s : State} {i : Nat}
    (h : s.seq.sp = .op i) : runListing slot ops fin s = runOps slot fin (ops.drop i) i s := by
  simp [runListing, h, Sp.rest, Sp.index]

/-! ## The steps of TRANSCEIVE -/

theorem transceiveStep_op_zero {slot : Byte} {s : State} (h : s.seq.sp = .op 0) :
    transceiveStep slot s = transceiveFirst slot s := by simp [transceiveStep, h]

theorem transceiveStep_op_succ {slot : Byte} {s : State} {i : Nat} (h : s.seq.sp = .op (i + 1)) :
    transceiveStep slot s = armWrite slot (i + 1) s := by simp [transceiveStep, h]

theorem transceiveStep_firstChunk {slot : Byte} {s : State} (h : s.seq.sp = .firstChunk) :
    transceiveStep slot s = firstChunk slot s := by simp [transceiveStep, h]

theorem transceiveStep_startExchange {slot : Byte} {s : State} (h : s.seq.sp = .startExchange) :
    transceiveStep slot s = startExchange slot s := by simp [transceiveStep, h]

theorem transceiveStep_streamEntry {slot : Byte} {s : State} (h : s.seq.sp = .streamEntry) :
    transceiveStep slot s = streamEntry slot s := by simp [transceiveStep, h]

theorem transceiveStep_nextChunk {slot : Byte} {s : State} (h : s.seq.sp = .nextChunk) :
    transceiveStep slot s = nextChunk slot s := by simp [transceiveStep, h]

theorem transceiveStep_streamBack {slot : Byte} {s : State} (h : s.seq.sp = .streamBack) :
    transceiveStep slot s = streamBack slot s := by simp [transceiveStep, h]

theorem transceiveStep_pollCommand {slot : Byte} {s : State} (h : s.seq.sp = .pollCommand) :
    transceiveStep slot s = pollCommand slot s := by simp [transceiveStep, h]

theorem transceiveStep_pollStatus {slot : Byte} {s : State} (h : s.seq.sp = .pollStatus) :
    transceiveStep slot s = pollStatus slot s := by simp [transceiveStep, h]

theorem transceiveStep_pollFlags {slot : Byte} {s : State} (h : s.seq.sp = .pollFlags) :
    transceiveStep slot s = pollFlags slot s := by simp [transceiveStep, h]

theorem transceiveStep_testError {slot : Byte} {s : State} (h : s.seq.sp = .testError) :
    transceiveStep slot s = testError slot s := by simp [transceiveStep, h]

theorem transceiveStep_testIrq {slot : Byte} {s : State} (h : s.seq.sp = .testIrq) :
    transceiveStep slot s = testIrq slot s := by simp [transceiveStep, h]

theorem transceiveStep_timedOut {slot : Byte} {s : State} (h : s.seq.sp = .timedOut) :
    transceiveStep slot s = raiseTransceive .timeout s := by simp [transceiveStep, h]

theorem transceiveStep_drainLength {slot : Byte} {s : State} (h : s.seq.sp = .drainLength) :
    transceiveStep slot s = drainLength slot s := by simp [transceiveStep, h]

theorem transceiveStep_drainRead {slot : Byte} {s : State} (h : s.seq.sp = .drainRead) :
    transceiveStep slot s = drainRead slot s := by simp [transceiveStep, h]

theorem transceiveStep_drainFlush {slot : Byte} {s : State} (h : s.seq.sp = .drainFlush) :
    transceiveStep slot s = drainFlush slot s := by simp [transceiveStep, h]

theorem transceiveStep_flushWrite {slot : Byte} {s : State} (h : s.seq.sp = .flushWrite) :
    transceiveStep slot s = flushWrite slot s := by simp [transceiveStep, h]

theorem transceiveStep_finish {slot : Byte} {s : State} (h : s.seq.sp = .finish) :
    transceiveStep slot s = succeed s := by simp [transceiveStep, h]

/-! ## The end of a poll iteration -/

/-- POLL_LIMIT is not reached where it is INF or still above polls. -/
theorem pollLimitReached_eq_false {limit : Option Nat} {polls : Nat} (h : ∀ l, limit = some l → polls < l) :
    pollLimitReached limit polls = false := by
  cases limit with
  | none => rfl
  | some l => simpa [pollLimitReached] using h l rfl

theorem raiseTransceive_failed (code : ErrCode) (s : State) : TransceiveFailed s (raiseTransceive code s) code [] := by
  refine ⟨rfl, rfl, rfl, raiseTransceive_keepsHostSide code s, fun a ha => ?_⟩
  simp [Memory.read_dropRx, ha]

/-- Wherever a step of TRANSCEIVE is `endIteration`, it ends the iteration as R182 says. -/
theorem endsIteration_of_step {slot x : Byte} {s : State} (h : transceiveStep slot s = endIteration s) :
    EndsIteration slot x s := by
  refine ⟨fun hl => ⟨endIteration s, congrArg _ h, ?_⟩, fun l hl hle => ⟨endIteration s, congrArg _ h, ?_⟩⟩
  · simp only [endIteration, pollLimitReached_eq_false hl]
    exact ⟨rfl, rfl, rfl, rfl, rfl, ⟨rfl, rfl, rfl, rfl, rfl, rfl, rfl, rfl, rfl, fun _ _ => rfl⟩, fun _ => rfl⟩
  · have hr : pollLimitReached s.cfg.pollLimit (s.seq.polls + 1) = true := by simp [pollLimitReached, hl, hle]
    simp only [endIteration, hr, if_true]
    exact ⟨raiseTransceive_failed .pollLimit s, rfl⟩

end Sys2Proof.Machine
end

