-- ==== Sys2Proof/Laws/Exec.lean ====
section
/-! SUPPORT. Everything a step of SEQ can do: one case list for the commands written as listings, one for
TRANSCEIVE. -/

namespace Sys2Proof.Machine

open Sys2Proof.Safety

/-- The latched command and operands are the same. -/
def SameLatch (q r : Seq) : Prop :=
  r.lcmd = q.lcmd ∧ r.larg0 = q.larg0 ∧ r.larg1 = q.larg1 ∧ r.larg2 = q.larg2

theorem SameLatch.refl (q : Seq) : SameLatch q q := ⟨rfl, rfl, rfl, rfl⟩

/-- What one step of a command other than TRANSCEIVE does to the state. -/
inductive ListingOutcome (slot : Byte) (s : State) : State → Prop
  /-- the command ends without error -/
  | ended (r : Word) : ListingOutcome slot s (complete r s)
  /-- the command ends with an error and no transaction -/
  | raised (c : ErrCode) (r : Word) (hc : c ≠ .none) : ListingOutcome slot s (raiseError c r s)
  /-- a hold -/
  | held (us j : Nat) (q : Seq) (hsp : q.sp = .op j) (hq : SameLatch s.seq q) :
      ListingOutcome slot s { waited (.hold us) s with seq := q }
  /-- a transaction fails, and the command with it -/
  | failed (ev : PortEvent) (r : Word) (hev : eventSlot ev = some slot) (hf : s.nextAnswer = .fail) :
      ListingOutcome slot s (raiseError .transport r (answered ev s))
  /-- a transaction succeeds, and the command goes on -/
  | went (ev : PortEvent) (j : Nat) (q : Seq) (hev : eventSlot ev = some slot) (hf : s.nextAnswer ≠ .fail)
      (hsp : q.sp = .op j) (hq : SameLatch s.seq q) : ListingOutcome slot s { answered ev s with seq := q }

theorem runOps_outcome (slot : Byte) {fin : State → State} (ops : List SeqOp) (i : Nat) (s : State)
    (hfin : ∃ r, fin s = complete r s) : ListingOutcome slot s (runOps slot fin ops i s) := by
  obtain h | ⟨us, j, h⟩ | ⟨a, r, j, h⟩ | ⟨a, v, r, j, k, h⟩ := runOps_cases slot fin ops i s <;> rw [h]
  · obtain ⟨r, hr⟩ := hfin
    rw [hr]
    exact .ended r
  · exact .held us j _ rfl ⟨rfl, rfl, rfl, rfl⟩
  · obtain ⟨hf, h⟩ | ⟨hf, v, h⟩ := regRead_cases slot a (raiseError .transport r) (holdV (.op j)) s <;> rw [h]
    · exact .failed _ r rfl hf
    · exact .went _ j _ rfl hf rfl ⟨rfl, rfl, rfl, rfl⟩
  · obtain ⟨hf, h⟩ | ⟨hf, h⟩ := regWrite_cases slot a v (raiseError .transport r) (goto (.op j)) (setK k s) <;> rw [h]
    · exact .failed _ r rfl hf
    · exact .went _ j { s.seq with k := k, sp := .op j } rfl hf rfl ⟨rfl, rfl, rfl, rfl⟩

theorem runListing_outcome (slot : Byte) {fin : State → State} (ops : List SeqOp) (s : State)
    (hfin : ∃ r, fin s = complete r s) : ListingOutcome slot s (runListing slot ops fin s) :=
  runOps_outcome slot _ _ s hfin

/-- Holding the timer pair first changes the hidden state only. -/
theorem ListingOutcome.of_holdPair {slot p d : Byte} {s t : State} (h : ListingOutcome slot (holdPair p d s) t) :
    ListingOutcome slot s t := by
  cases h with
  | ended r => exact .ended r
  | raised c r hc => exact .raised c r hc
  | held us j q hsp hq => exact .held us j q hsp hq
  | failed ev r hev hf => exact .failed ev r hev hf
  | went ev j q hev hf hsp hq => exact .went ev j q hev hf hsp hq

/-- A step of a command other than TRANSCEIVE is one of the cases of `ListingOutcome`. -/
theorem exec_listing_outcome (i : Instr) (s t : State) (hi : ∀ slot x, i ≠ .transceive slot x)
    (h : exec i s = .next t) : ListingOutcome i.slot s t := by
  cases i with
  | transceive slot x => exact absurd rfl (hi slot x)
  | resetInit slot => cases h; exact runListing_outcome _ _ _ ⟨_, rfl⟩
  | applyDefaults slot => cases h; exact runListing_outcome _ _ _ ⟨_, rfl⟩
  | setRfMode slot => cases h; exact runListing_outcome _ _ _ ⟨_, rfl⟩
  | setRfPower slot x => cases h; exact runListing_outcome _ _ _ ⟨_, rfl⟩
  | getError slot => cases h; exact runListing_outcome _ _ _ ⟨_, rfl⟩
  | getCollPos slot => cases h; exact runListing_outcome _ _ _ ⟨_, rfl⟩
  | clearBits slot => cases h; exact runListing_outcome _ _ _ ⟨_, rfl⟩
  | setBits slot => cases h; exact runListing_outcome _ _ _ ⟨_, rfl⟩
  | setMasked slot => cases h; exact runListing_outcome _ _ _ ⟨_, rfl⟩
  | getSpeeds slot => cases h; exact .ended _
  | getCarrier slot => cases h; exact .ended _
  | getMaxFrame slot => cases h; exact .ended _
  | setSpeed slot rate =>
    simp only [exec, execSetSpeed] at h
    cases h
    split
    · exact .raised _ _ (by decide)
    · exact runListing_outcome _ _ _ ⟨_, rfl⟩
  | applyTable slot =>
    simp only [exec, execApplyTable] at h
    cases h
    split
    · exact .raised _ _ (by decide)
    · exact runListing_outcome _ _ _ ⟨_, rfl⟩
  | deriveTimer slot =>
    simp only [exec, execDeriveTimer] at h
    cases h
    split
    · exact .raised _ _ (by decide)
    · exact .ended _
  | armTimer slot =>
    simp only [exec, execArmTimer] at h
    cases h
    split
    · split
      · exact .raised _ _ (by decide)
      · exact (runListing_outcome _ _ _ ⟨_, rfl⟩).of_holdPair
    · exact runListing_outcome _ _ _ ⟨_, rfl⟩

/-- What one step of TRANSCEIVE does to the state. In the step after the FifoRead RXBUF takes the bytes first. -/
inductive TransceiveOutcome (slot : Byte) (s : State) : State → Prop
  /-- success, in the step after the FifoRead -/
  | storedAndSucceeded (hs : s.seq.sp = .drainFlush) : TransceiveOutcome slot s (succeed (storeRx s.seq.bytes s))
  /-- success in a later step -/
  | succeeded (hs : phaseAt s.seq.sp = .drain) (hsp : s.seq.sp ≠ .drainFlush) : TransceiveOutcome slot s (succeed s)
  /-- an error with no transaction in this step -/
  | raised (c : ErrCode) (hc : c ≠ .none) (hi : c ≠ .illegal) : TransceiveOutcome slot s (raiseTransceive c s)
  /-- a transaction fails, and the command with it -/
  | failed (ev : PortEvent) (hev : eventSlot ev = some slot) (hf : s.nextAnswer = .fail) :
      TransceiveOutcome slot s (raiseTransceive .transport (answered ev s))
  /-- the flush's read fails in the step after the FifoRead, and the command with it -/
  | storedAndFailed (ev : PortEvent) (hev : eventSlot ev = some slot) (hf : s.nextAnswer = .fail) :
      TransceiveOutcome slot s (raiseTransceive .transport (answered ev (storeRx s.seq.bytes s)))
  /-- an iteration of the poll loop yields -/
  | yielded (us : Nat) (q : Seq) (hs : phaseAt s.seq.sp = .await) (hsp : q.sp = .pollCommand) (hq : SameLatch s.seq q) :
      TransceiveOutcome slot s { waited (.yield us) s with seq := q }
  /-- a transaction succeeds, and the command goes on in the same state of the exchange -/
  | went (ev : PortEvent) (q : Seq) (hev : eventSlot ev = some slot) (hf : s.nextAnswer ≠ .fail)
      (hsp : phaseAt q.sp = phaseAt s.seq.sp) (hd : q.sp = .drainLength → s.seq.sp = .pollStatus ∧ s.seq.c = 0)
      (hq : SameLatch s.seq q) : TransceiveOutcome slot s { answered ev s with seq := q }
  /-- the step begins another state of the exchange, and its transaction succeeds -/
  | entered (ev : PortEvent) (q : Seq) (hev : eventSlot ev = some slot) (hf : s.nextAnswer ≠ .fail)
      (hp : (phaseAt s.seq.sp = .idle ∧ phaseAt q.sp = .streaming) ∨
        (phaseAt s.seq.sp = .streaming ∧ phaseAt q.sp = .await) ∨
        (s.seq.sp = .drainLength ∧ phaseAt q.sp = .drain)) (hq : SameLatch s.seq q) :
      TransceiveOutcome slot s
        { answered ev s with seq := q, status := { s.status with phase := phaseAt q.sp } }
  /-- the flush's read succeeds in the step after the FifoRead -/
  | stored (ev : PortEvent) (q : Seq) (hev : eventSlot ev = some slot) (hf : s.nextAnswer ≠ .fail)
      (hs : s.seq.sp = .drainFlush) (hsp : q.sp = .flushWrite) (hq : SameLatch s.seq q) :
      TransceiveOutcome slot s { answered ev (storeRx s.seq.bytes s) with seq := q }

theorem regRead_outcome {slot a : Byte} {s : State} (f : Byte → Seq) (q : Seq)
    (hsp : ∀ b, phaseAt (f b).sp = phaseAt s.seq.sp) (hd : ∀ b, (f b).sp ≠ .drainLength)
    (hq : ∀ b, SameLatch s.seq (f b)) :
    TransceiveOutcome slot s
      (regRead slot a failTransceive (fun b t => { t with seq := f b }) { s with seq := q }) := by
  obtain ⟨hf, h⟩ | ⟨hf, v, h⟩ :=
    regRead_cases slot a failTransceive (fun b t => { t with seq := f b }) { s with seq := q } <;> rw [h]
  · exact .failed _ rfl hf
  · exact .went _ (f v) rfl hf (hsp v) (fun h => absurd h (hd v)) (hq v)

/-- A register read that begins the state `ph` of the exchange. -/
theorem regRead_enters {slot a : Byte} {s : State} {ph : Phase} (f : Byte → Seq) (q : Seq)
    (hph : ∀ b, phaseAt (f b).sp = ph)
    (hp : (phaseAt s.seq.sp = .streaming ∧ ph = .await) ∨ (s.seq.sp = .drainLength ∧ ph = .drain))
    (hq : ∀ b, SameLatch s.seq (f b)) :
    TransceiveOutcome slot s
      (regRead slot a failTransceive (fun b t => { t with seq := f b }) (setPhase ph { s with seq := q })) := by
  obtain ⟨hf, h⟩ | ⟨hf, v, h⟩ :=
    regRead_cases slot a failTransceive (fun b t => { t with seq := f b }) (setPhase ph { s with seq := q }) <;> rw [h]
  · exact .failed _ rfl hf
  · have h := TransceiveOutcome.entered (s := s) (.regRead slot a (some v)) (f v) rfl hf (.inr (by rwa [hph v])) (hq v)
    rwa [hph v] at h

/-- The first chunk's step, from wherever SP stands in step 1. -/
theorem firstChunk_outcome {slot : Byte} {s : State} (hs : phaseAt s.seq.sp = .idle) (q : Seq)
    (hq : SameLatch s.seq q) : TransceiveOutcome slot s (firstChunk slot { s with seq := q }) := by
  unfold firstChunk
  simp only
  generalize min fifoSize (xferTxLen q) = n
  generalize State.txBytes _ 0 n = bytes
  obtain ⟨hf, h⟩ | ⟨hf, h⟩ := fifoWrite_cases slot bytes failTransceive (goto .startExchange)
    (beginStreaming { s with seq := { q with chunk := n } }) <;> rw [h]
  · exact .failed _ rfl hf
  · exact .entered _ { q with chunk := n, sp := .startExchange } rfl hf (.inl ⟨hs, rfl⟩) hq

theorem armWrite_outcome {slot : Byte} {s : State} {i j : Nat} (hs : s.seq.sp = .op j) (q : Seq)
    (hq : SameLatch s.seq q) : TransceiveOutcome slot s (armWrite slot i { s with seq := q }) := by
  have hp : phaseAt s.seq.sp = .idle := by rw [hs]; rfl
  unfold armWrite
  split
  · exact firstChunk_outcome hp q hq
  next w _ =>
    obtain ⟨hf, h⟩ | ⟨hf, h⟩ := regWrite_cases slot w.1 w.2 failTransceive
      (goto (if i = 6 then .firstChunk else .op (i + 1))) { s with seq := q } <;> rw [h]
    · exact .failed _ rfl hf
    · refine .went _ { q with sp := if i = 6 then .firstChunk else .op (i + 1) } rfl hf ?_ ?_ hq <;>
        by_cases h6 : i = 6 <;> simp [h6, hs, phaseAt]

theorem streamLoop_outcome {slot : Byte} {s : State} (hs : phaseAt s.seq.sp = .streaming) (q : Seq)
    (hq : SameLatch s.seq q) : TransceiveOutcome slot s (streamLoop slot { s with seq := q }) := by
  unfold streamLoop
  split
  · exact regRead_outcome (fun b => { q with fill := b, sp := .nextChunk }) q (by intro b; rw [hs]; rfl)
      (fun _ => by simp) (fun _ => hq)
  · exact regRead_enters (ph := .await) (fun b => { q with polls := 0, c := b, sp := .pollStatus })
      { q with polls := 0 } (fun _ => rfl) (.inl ⟨hs, rfl⟩) (fun _ => hq)

theorem endIteration_outcome {slot : Byte} {s : State} (hs : phaseAt s.seq.sp = .await) :
    TransceiveOutcome slot s (endIteration s) := by
  unfold endIteration
  simp only
  split
  · exact .raised .pollLimit (by decide) (by decide)
  · exact .yielded _ { s.seq with polls := s.seq.polls + 1, sp := .pollCommand } hs rfl
      ⟨rfl, rfl, rfl, rfl⟩

theorem readInterrupts_outcome {slot : Byte} {s : State} (hs : phaseAt s.seq.sp = .await) :
    TransceiveOutcome slot s (readInterrupts slot s) := by
  unfold readInterrupts
  split
  · exact regRead_outcome (fun b => { s.seq with q := b, sp := .testIrq }) s.seq (by intro b; rw [hs]; rfl)
      (fun _ => by simp) (fun _ => ⟨rfl, rfl, rfl, rfl⟩)
  · exact endIteration_outcome hs

/-- A step of TRANSCEIVE is one of the cases of `TransceiveOutcome`. -/
theorem transceiveStep_outcome (slot : Byte) (s : State) : TransceiveOutcome slot s (transceiveStep slot s) := by
  cases hsp : s.seq.sp with
  | op i =>
    cases i with
    | zero =>
      rw [transceiveStep_op_zero hsp]
      unfold transceiveFirst
      split
      · exact .raised _ (by decide) (by decide)
      · split
        · exact .raised _ (by decide) (by decide)
        · exact armWrite_outcome (j := 0) hsp _ ⟨rfl, rfl, rfl, rfl⟩
    | succ i =>
      rw [transceiveStep_op_succ hsp]
      exact armWrite_outcome hsp s.seq (.refl _)
  | firstChunk =>
    rw [transceiveStep_firstChunk hsp]
    exact firstChunk_outcome (by rw [hsp]; rfl) s.seq (.refl _)
  | startExchange =>
    rw [transceiveStep_startExchange hsp]
    unfold startExchange
    obtain ⟨hf, h⟩ | ⟨hf, h⟩ := regWrite_cases slot s.cfg.regs.command s.cfg.regs.cmdTransceive failTransceive
      (goto .streamEntry) s <;> rw [h]
    · exact .failed _ rfl hf
    · exact .went _ { s.seq with sp := .streamEntry } rfl hf (by rw [hsp]; rfl) (by simp) ⟨rfl, rfl, rfl, rfl⟩
  | streamEntry =>
    rw [transceiveStep_streamEntry hsp]
    exact streamLoop_outcome (by rw [hsp]; rfl) _ ⟨rfl, rfl, rfl, rfl⟩
  | nextChunk =>
    rw [transceiveStep_nextChunk hsp]
    unfold nextChunk
    simp only
    split
    · exact streamLoop_outcome (by rw [hsp]; rfl) _ ⟨rfl, rfl, rfl, rfl⟩
    · generalize laterChunk s.seq = n
      obtain ⟨hf, h⟩ | ⟨hf, h⟩ := fifoWrite_cases slot (s.txBytes s.seq.txOff n) failTransceive (goto .streamBack)
        { s with seq := { s.seq with chunk := n } } <;> rw [h]
      · exact .failed _ rfl hf
      · exact .went _ { s.seq with chunk := n, sp := .streamBack } rfl hf (by rw [hsp]; rfl) (by simp)
          ⟨rfl, rfl, rfl, rfl⟩
  | streamBack =>
    rw [transceiveStep_streamBack hsp]
    exact streamLoop_outcome (by rw [hsp]; rfl) _ ⟨rfl, rfl, rfl, rfl⟩
  | pollCommand =>
    rw [transceiveStep_pollCommand hsp]
    exact regRead_outcome (fun b => { s.seq with c := b, sp := .pollStatus }) s.seq
      (by intro b; rw [hsp]; rfl) (fun _ => by simp) (fun _ => ⟨rfl, rfl, rfl, rfl⟩)
  | pollStatus =>
    rw [transceiveStep_pollStatus hsp]
    unfold pollStatus
    split
    next hc =>
      obtain ⟨hf, h⟩ | ⟨hf, h⟩ := regWrite_cases slot s.cfg.regs.interruptRq s.cfg.regs.irqRx failTransceive
        (goto .drainLength) s <;> rw [h]
      · exact .failed _ rfl hf
      · exact .went _ { s.seq with sp := .drainLength } rfl hf (by rw [hsp]; rfl) (fun _ => ⟨hsp, hc⟩)
          ⟨rfl, rfl, rfl, rfl⟩
    · exact regRead_outcome (fun b => { s.seq with s := b, sp := .pollFlags }) s.seq
        (by intro b; rw [hsp]; rfl) (fun _ => by simp) (fun _ => ⟨rfl, rfl, rfl, rfl⟩)
  | pollFlags =>
    rw [transceiveStep_pollFlags hsp]
    unfold pollFlags
    split
    · exact regRead_outcome (fun b => { s.seq with e := b, sp := .testError }) s.seq
        (by intro b; rw [hsp]; rfl) (fun _ => by simp) (fun _ => ⟨rfl, rfl, rfl, rfl⟩)
    · exact readInterrupts_outcome (by rw [hsp]; rfl)
  | testError =>
    rw [transceiveStep_testError hsp]
    unfold testError
    split
    · exact .raised _ (by decide) (by decide)
    · split
      · exact .raised _ (by decide) (by decide)
      · exact readInterrupts_outcome (by rw [hsp]; rfl)
  | testIrq =>
    rw [transceiveStep_testIrq hsp]
    unfold testIrq
    split
    · obtain ⟨hf, h⟩ | ⟨hf, h⟩ := regWrite_cases slot s.cfg.regs.interruptRq s.cfg.regs.irqTimer failTransceive
        (goto .timedOut) s <;> rw [h]
      · exact .failed _ rfl hf
      · exact .went _ { s.seq with sp := .timedOut } rfl hf (by rw [hsp]; rfl) (by simp) ⟨rfl, rfl, rfl, rfl⟩
    · exact endIteration_outcome (by rw [hsp]; rfl)
  | timedOut =>
    rw [transceiveStep_timedOut hsp]
    exact .raised _ (by decide) (by decide)
  | drainLength =>
    rw [transceiveStep_drainLength hsp]
    exact regRead_enters (ph := .drain) (fun b => { s.seq with avail := b, sp := .drainRead }) s.seq
      (fun _ => rfl) (.inr ⟨hsp, rfl⟩) (fun _ => ⟨rfl, rfl, rfl, rfl⟩)
  | drainRead =>
    rw [transceiveStep_drainRead hsp]
    unfold drainRead
    split
    · exact .raised _ (by decide) (by decide)
    · simp only
      generalize min s.seq.avail.toNat (xferCap s.seq) = n
      obtain ⟨hf, h⟩ | ⟨hf, bytes, _, h⟩ := fifoRead_cases slot n failTransceive
        (fun bytes t => { t with seq := { t.seq with bytes := bytes, sp := .drainFlush } })
        { s with seq := { s.seq with n := n } } <;> rw [h]
      · exact .failed _ rfl hf
      · exact .went _ { s.seq with n := n, bytes := bytes, sp := .drainFlush } rfl hf (by rw [hsp]; rfl) (by simp)
          ⟨rfl, rfl, rfl, rfl⟩
  | drainFlush =>
    rw [transceiveStep_drainFlush hsp]
    unfold drainFlush
    simp only
    split
    · obtain ⟨hf, h⟩ | ⟨hf, v, h⟩ := regRead_cases slot s.cfg.regs.control failTransceive (holdV .flushWrite)
        (storeRx s.seq.bytes s) <;> rw [h]
      · exact .storedAndFailed _ rfl hf
      · exact .stored _ { s.seq with v := v, sp := .flushWrite } rfl hf hsp rfl ⟨rfl, rfl, rfl, rfl⟩
    · exact .storedAndSucceeded hsp
  | flushWrite =>
    rw [transceiveStep_flushWrite hsp]
    unfold flushWrite
    split
    · exact .succeeded (by rw [hsp]; rfl) (by rw [hsp]; simp)
    next w _ =>
      obtain ⟨hf, h⟩ | ⟨hf, h⟩ := regWrite_cases slot s.cfg.regs.control w failTransceive (goto .finish) s <;> rw [h]
      · exact .failed _ rfl hf
      · exact .went _ { s.seq with sp := .finish } rfl hf (by rw [hsp]; rfl) (by simp) ⟨rfl, rfl, rfl, rfl⟩
  | finish =>
    rw [transceiveStep_finish hsp]
    exact .succeeded (by rw [hsp]; rfl) (by rw [hsp]; simp)

end Sys2Proof.Machine
end

