-- ==== Sys2Proof/Laws/Listing.lean ====
section
/-! SUPPORT. Runs of a command written as a listing: what each kind of step contributes to a run that ends without
error. -/

namespace Sys2Proof.Machine

open Sys2Proof.Safety

/-- The rest of a run from a state that a step of the command has given. -/
def runOn (c : Instr) (fuel : Nat) (t : State) : Option State :=
  if t.status.busy then runToEnd c fuel t else some t

theorem runToEnd_succ {c : Instr} {fuel : Nat} {s t : State} (h : exec c s = .next t) :
    runToEnd c (fuel + 1) s = runOn c fuel t := by
  simp [runToEnd, h, runOn]

theorem runOn_succ {c : Instr} {fuel : Nat} {t u : State} (h : runOn c fuel t = some u) :
    runOn c (fuel + 1) t = some u := by
  induction fuel generalizing t with
  | zero =>
    simp only [runOn, runToEnd] at h ⊢
    split at h
    · cases h
    · simp_all
  | succ n ih =>
    unfold runOn at h ⊢
    split at h
    · rename_i hb
      simp only [hb, if_true]
      rw [runToEnd]
      simp only [runToEnd] at h
      split at h
      · exact ih h
      · cases h
      · cases h
    · simp_all

/-- More fuel changes nothing about a run that ends. -/
theorem runOn_mono {c : Instr} {m n : Nat} {t u : State} (hle : m ≤ n) (h : runOn c m t = some u) :
    runOn c n t = some u := by
  induction hle with
  | refl => exact h
  | step _ ih => exact runOn_succ ih

/-- From `s` to `t` a listing has gone on: the port saw `events`, newest first, ENV's answers are used up to `left`,
and only the hidden state has changed besides, the latched operands and the timer pair excepted. -/
structure WentOn (s t : State) (events : List PortEvent) (left : List Answer) : Prop where
  cfg : t.cfg = s.cfg
  cmd : t.cmd = s.cmd
  ctrl : t.ctrl = s.ctrl
  arg0 : t.arg0 = s.arg0
  arg1 : t.arg1 = s.arg1
  arg2 : t.arg2 = s.arg2
  status : t.status = s.status
  hostIn : t.hostIn = s.hostIn
  busOut : t.busOut = s.busOut
  mem : t.mem = s.mem
  txEpoch : t.txEpoch = s.txEpoch
  rxEpoch : t.rxEpoch = s.rxEpoch
  trace : t.trace = events ++ s.trace
  envIn : t.envIn = left
  latch : SameLatch s.seq t.seq
  p : t.seq.p = s.seq.p
  d : t.seq.d = s.seq.d

theorem WentOn.refl {s : State} {left : List Answer} (h : s.envIn = left) : WentOn s s [] left := by
  constructor <;> simp [SameLatch, h]

theorem WentOn.trans {s t u : State} {e e' : List PortEvent} {l l' : List Answer} (h : WentOn s t e l)
    (g : WentOn t u e' l') : WentOn s u (e' ++ e) l' where
  cfg := g.cfg.trans h.cfg
  cmd := g.cmd.trans h.cmd
  ctrl := g.ctrl.trans h.ctrl
  arg0 := g.arg0.trans h.arg0
  arg1 := g.arg1.trans h.arg1
  arg2 := g.arg2.trans h.arg2
  status := g.status.trans h.status
  hostIn := g.hostIn.trans h.hostIn
  busOut := g.busOut.trans h.busOut
  mem := g.mem.trans h.mem
  txEpoch := g.txEpoch.trans h.txEpoch
  rxEpoch := g.rxEpoch.trans h.rxEpoch
  trace := by rw [g.trace, h.trace, List.append_assoc]
  envIn := g.envIn
  latch := ⟨g.latch.1.trans h.latch.1, g.latch.2.1.trans h.latch.2.1, g.latch.2.2.1.trans h.latch.2.2.1,
    g.latch.2.2.2.trans h.latch.2.2.2⟩
  p := g.p.trans h.p
  d := g.d.trans h.d

theorem WentOn.bufByte {s t : State} {e : List PortEvent} {l : List Answer} (h : WentOn s t e l) (a : Nat) :
    t.bufByte a = s.bufByte a :=
  State.bufByte_congr h.mem h.txEpoch h.rxEpoch a

theorem WentOn.keepsHostSide {s t : State} {e : List PortEvent} {l : List Answer} (h : WentOn s t e l) :
    KeepsHostSide s t :=
  ⟨h.cfg, h.cmd, h.ctrl, h.arg0, h.arg1, h.arg2, by rw [h.status], h.hostIn, h.busOut, fun a _ => h.bufByte a⟩

/-- complete() after a listing has gone on. -/
theorem WentOn.endedOk {s t : State} {e : List PortEvent} {l : List Answer} (h : WentOn s t e l) (r : Word) :
    EndedOk s (complete r t) r e l := by
  refine ⟨rfl, by simp [h.status, Status.completed], h.trace, h.envIn, ?_, h.bufByte⟩
  exact ⟨h.cfg, h.cmd, h.ctrl, h.arg0, h.arg1, h.arg2, by simp [h.status], h.hostIn, h.busOut, fun a _ => h.bufByte a⟩

theorem wentOn_waited (us : Nat) (sp : Sp) (s : State) : WentOn s (goto sp (waited (.hold us) s)) [.hold us] s.envIn := by
  constructor <;> simp [SameLatch]

theorem wentOn_answered (ev : PortEvent) (sp : Sp) (s : State) :
    WentOn s (goto sp (answered ev s)) [ev] s.envIn.tail := by
  constructor <;> simp [SameLatch]

theorem wentOn_holdV (ev : PortEvent) (sp : Sp) (v : Byte) (s : State) :
    WentOn s (holdV sp v (answered ev s)) [ev] s.envIn.tail := by
  constructor <;> simp [SameLatch]

theorem wentOn_setK (ev : PortEvent) (sp : Sp) (k : Nat) (s : State) :
    WentOn s (goto sp (answered ev (setK k s))) [ev] s.envIn.tail := by
  constructor <;> simp [SameLatch]

/-- `c`, started at `s₀`, runs the listing `ops` from wherever SP points. -/
def RunsListing (c : Instr) (slot : Byte) (ops : List SeqOp) (fin : State → State) (s₀ : State) : Prop :=
  ∀ s events left i, WentOn s₀ s events left → s.seq.sp = .op i → exec c s = .next (runOps slot fin (ops.drop i) i s)

theorem RunsListing.of_exec {c : Instr} {slot : Byte} {ops : List SeqOp} {fin : State → State} {s₀ : State}
    (h : ∀ s events left, WentOn s₀ s events left → exec c s = .next (runListing slot ops fin s)) :
    RunsListing c slot ops fin s₀ := by
  intro s events left i hw hsp
  rw [h s events left hw, runListing_at hsp]

section Run

variable {c : Instr} {slot : Byte} {ops more : List SeqOp} {fin : State → State} {s₀ s : State}
  {events : List PortEvent} {left : List Answer} {i fuel : Nat} {Q : State → Prop}

theorem drop_succ_of_drop {op : SeqOp} (h : ops.drop i = op :: more) : ops.drop (i + 1) = more := by
  rw [← List.drop_drop]
  simp [h]

/-- A state in which the command goes on at step `j` is the start of the rest of the run. -/
theorem RunsListing.go {t : State} {j : Nat} (hl : RunsListing c slot ops fin s₀) (hb : s₀.status.busy = true)
    (ht : WentOn s₀ t events left) (hsp : t.seq.sp = .op j) :
    runOn c (fuel + 1) t = runOn c fuel (runOps slot fin (ops.drop j) j t) := by
  have hbt : t.status.busy = true := by rw [ht.status]; exact hb
  conv_lhs => rw [runOn]
  rw [if_pos hbt, runToEnd_succ (hl t events left j ht hsp)]

/-- Hold. -/
theorem RunsListing.hold {us : Nat} (hl : RunsListing c slot ops fin s₀) (hb : s₀.status.busy = true)
    (hw : WentOn s₀ s events left) (hd : ops.drop i = .hold us :: more)
    (hgo : ∀ t, WentOn s₀ t (.hold us :: events) left →
      ∃ u, runOn c fuel (runOps slot fin more (i + 1) t) = some u ∧ Q u) :
    ∃ u, runOn c (fuel + 1) (runOps slot fin (ops.drop i) i s) = some u ∧ Q u := by
  have ht := hw.trans (wentOn_waited us (.op (i + 1)) s)
  rw [hw.envIn] at ht
  rw [hd]
  simp only [runOps]
  rw [hl.go hb ht rfl, drop_succ_of_drop hd]
  exact hgo _ ht

/-- A whole write. -/
theorem RunsListing.write {a v : Byte} {b : List Byte} (hl : RunsListing c slot ops fin s₀)
    (hb : s₀.status.busy = true) (hw : WentOn s₀ s events (.ok b :: left)) (hd : ops.drop i = .write a v :: more)
    (hgo : ∀ t, WentOn s₀ t (.regWrite slot a v true :: events) left →
      ∃ u, runOn c fuel (runOps slot fin more (i + 1) t) = some u ∧ Q u) :
    ∃ u, runOn c (fuel + 1) (runOps slot fin (ops.drop i) i s) = some u ∧ Q u := by
  have ht := hw.trans (wentOn_answered (.regWrite slot a v true) (.op (i + 1)) s)
  rw [hw.envIn] at ht
  rw [hd]
  simp only [runOps]
  rw [regWrite_of_ok hw.envIn, hl.go hb ht rfl, drop_succ_of_drop hd]
  exact hgo _ ht

/-- A register procedure of two steps, the read and the test `op` with the write of `w` where there is one. -/
theorem RunsListing.update {a v : Byte} {w : Option Byte} {r : Word} {op : SeqOp}
    (hl : RunsListing c slot ops fin s₀) (hb : s₀.status.busy = true)
    (hw : WentOn s₀ s events (updateAnswers v w ++ left)) (hd : ops.drop i = .read a r :: op :: more)
    (hnone : w = none → ∀ t : State, t.seq.v = v →
      runOps slot fin (op :: more) (i + 1) t = runOps slot fin more (i + 1 + 1) t)
    (hsome : ∀ x, w = some x → ∀ t : State, t.seq.v = v →
      runOps slot fin (op :: more) (i + 1) t = regWrite slot a x (raiseError .transport r) (goto (.op (i + 1 + 1))) t)
    (hgo : ∀ t, WentOn s₀ t (updateEvents slot a v w ++ events) left → t.seq.k = s.seq.k →
      ∃ u, runOn c fuel (runOps slot fin more (i + 2) t) = some u ∧ Q u) :
    ∃ u, runOn c (fuel + 2) (runOps slot fin (ops.drop i) i s) = some u ∧ Q u := by
  have h1 := drop_succ_of_drop hd
  have ht := hw.trans (wentOn_holdV (.regRead slot a (some v)) (.op (i + 1)) v s)
  rw [hw.envIn] at ht
  rw [hd]
  simp only [runOps]
  rw [regRead_of_ok (v := v) (vs := []) (by rw [hw.envIn]; rfl), hl.go hb ht rfl, h1]
  generalize hs1 : holdV (.op (i + 1)) v (answered (.regRead slot a (some v)) s) = s1 at ht ⊢
  have hv : s1.seq.v = v := by rw [← hs1]; rfl
  cases w with
  | none =>
    rw [hnone rfl s1 hv]
    obtain ⟨u, hu, hq⟩ := hgo s1 (by simpa [updateEvents, updateAnswers] using ht) (by rw [← hs1]; rfl)
    exact ⟨u, runOn_succ hu, hq⟩
  | some x =>
    rw [hsome x rfl s1 hv, regWrite_of_ok (b := []) (by rw [ht.envIn]; rfl)]
    have hu := ht.trans (wentOn_answered (.regWrite slot a x true) (.op (i + 1 + 1)) s1)
    rw [ht.envIn] at hu
    rw [hl.go hb hu rfl, drop_succ_of_drop h1]
    exact hgo _ (by simpa [updateEvents, updateAnswers] using hu) (by rw [← hs1]; rfl)

/-- clear_bits. -/
theorem RunsListing.clearBits {a m v : Byte} {r : Word} (hl : RunsListing c slot ops fin s₀)
    (hb : s₀.status.busy = true) (hw : WentOn s₀ s events (updateAnswers v (clearedValue v m) ++ left))
    (hd : ops.drop i = clearBitsOps a m r ++ more)
    (hgo : ∀ t, WentOn s₀ t (updateEvents slot a v (clearedValue v m) ++ events) left → t.seq.k = s.seq.k →
      ∃ u, runOn c fuel (runOps slot fin more (i + 2) t) = some u ∧ Q u) :
    ∃ u, runOn c (fuel + 2) (runOps slot fin (ops.drop i) i s) = some u ∧ Q u :=
  hl.update hb hw hd (fun h t hv => by simp only [runOps, hv, h])
    (fun x h t hv => by simp only [runOps, hv, h]) hgo

/-- set_bits. -/
theorem RunsListing.setBits {a m v : Byte} {r : Word} (hl : RunsListing c slot ops fin s₀)
    (hb : s₀.status.busy = true) (hw : WentOn s₀ s events (updateAnswers v (setValue v m) ++ left))
    (hd : ops.drop i = setBitsOps a m r ++ more)
    (hgo : ∀ t, WentOn s₀ t (updateEvents slot a v (setValue v m) ++ events) left → t.seq.k = s.seq.k →
      ∃ u, runOn c fuel (runOps slot fin more (i + 2) t) = some u ∧ Q u) :
    ∃ u, runOn c (fuel + 2) (runOps slot fin (ops.drop i) i s) = some u ∧ Q u :=
  hl.update hb hw hd (fun h t hv => by simp only [runOps, hv, h])
    (fun x h t hv => by simp only [runOps, hv, h]) hgo

/-- set_masked. -/
theorem RunsListing.setMasked {a m b v : Byte} {r : Word} (hl : RunsListing c slot ops fin s₀)
    (hb : s₀.status.busy = true) (hw : WentOn s₀ s events (updateAnswers v (maskedValue v m b) ++ left))
    (hd : ops.drop i = setMaskedOps a m b r ++ more)
    (hgo : ∀ t, WentOn s₀ t (updateEvents slot a v (maskedValue v m b) ++ events) left → t.seq.k = s.seq.k →
      ∃ u, runOn c fuel (runOps slot fin more (i + 2) t) = some u ∧ Q u) :
    ∃ u, runOn c (fuel + 2) (runOps slot fin (ops.drop i) i s) = some u ∧ Q u :=
  hl.update hb hw hd (fun h t hv => by simp only [runOps, hv, h])
    (fun x h t hv => by simp only [runOps, hv, h]) hgo

/-- The back-edge of a table's loop: the entries after entry k, and then the rest of the listing. -/
theorem RunsListing.tableNext {entries : List Entry} (hl : RunsListing c slot ops fin s₀) (hb : s₀.status.busy = true)
    (hd : ops.drop i = .tableNext entries :: more) {n : Nat} (hn : s.seq.k + 1 + n = entries.length)
    (hw : WentOn s₀ s events (List.replicate n (.ok []) ++ left))
    (hgo : ∀ t, WentOn s₀ t
        (((entries.drop (s.seq.k + 1)).map fun e => .regWrite slot e.1 e.2 true).reverse ++ events) left →
      ∃ u, runOn c fuel (runOps slot fin more (i + 1) t) = some u ∧ Q u) :
    ∃ u, runOn c (fuel + n) (runOps slot fin (ops.drop i) i s) = some u ∧ Q u := by
  induction n generalizing s events with
  | zero =>
    have hk : entries.length ≤ s.seq.k + 1 := by omega
    simp only [hd, runOps, List.getElem?_eq_none hk]
    exact hgo s (by simpa [List.drop_eq_nil_of_le hk] using hw)
  | succ n ih =>
    have hk : s.seq.k + 1 < entries.length := by omega
    have ht := hw.trans (wentOn_setK (.regWrite slot entries[s.seq.k + 1].1 entries[s.seq.k + 1].2 true) (.op i)
      (s.seq.k + 1) s)
    rw [hw.envIn] at ht
    have hstep : runOps slot fin (ops.drop i) i s =
        goto (.op i) (answered (.regWrite slot entries[s.seq.k + 1].1 entries[s.seq.k + 1].2 true)
          (setK (s.seq.k + 1) s)) := by
      simp only [hd, runOps, List.getElem?_eq_getElem hk]
      exact regWrite_of_ok (b := []) (by rw [setK_envIn, hw.envIn]; rfl)
    rw [hstep, ← Nat.add_assoc, hl.go hb ht rfl]
    refine ih (by simp; omega) ht fun t h => hgo t ?_
    rw [List.drop_eq_getElem_cons hk, List.map_cons, List.reverse_cons, List.append_assoc]
    exact h

/-- apply_table with every write answered. -/
theorem RunsListing.table {entries : List Entry} (hl : RunsListing c slot ops fin s₀) (hb : s₀.status.busy = true)
    (hd : ops.drop i = tableOps entries ++ more)
    (hw : WentOn s₀ s events (List.replicate entries.length (.ok []) ++ left))
    (hgo : ∀ t, WentOn s₀ t ((entries.map fun e => .regWrite slot e.1 e.2 true).reverse ++ events) left →
      ∃ u, runOn c fuel (runOps slot fin more (i + 2) t) = some u ∧ Q u) :
    ∃ u, runOn c (fuel + entries.length) (runOps slot fin (ops.drop i) i s) = some u ∧ Q u := by
  have hd' : ops.drop (i + 1) = .tableNext entries :: more := drop_succ_of_drop hd
  cases entries with
  | nil =>
    simp only [hd, tableOps, List.cons_append, List.nil_append, runOps, List.getElem?_nil]
    exact hgo s hw
  | cons e rest =>
    have ht := hw.trans (wentOn_setK (.regWrite slot e.1 e.2 true) (.op (i + 1)) 0 s)
    rw [hw.envIn] at ht
    have hstep : runOps slot fin (ops.drop i) i s =
        goto (.op (i + 1)) (answered (.regWrite slot e.1 e.2 true) (setK 0 s)) := by
      simp only [hd, tableOps, List.cons_append, runOps, List.getElem?_cons_zero]
      exact regWrite_of_ok (b := []) (by rw [setK_envIn, hw.envIn]; rfl)
    rw [hstep, List.length_cons, ← Nat.add_assoc, hl.go hb ht rfl]
    refine hl.tableNext hb hd' (by simp; omega) ht fun t h => hgo t ?_
    simpa using h

/-- The end of the listing. -/
theorem runOn_end {r : Word} (hw : WentOn s₀ s events left) (hf : fin s = complete r s) :
    ∃ u, runOn c fuel (runOps slot fin [] i s) = some u ∧ EndedOk s₀ u r events left :=
  ⟨complete r s, by simp [runOn, runOps, hf], hw.endedOk r⟩

/-- The first step of a run, then the rest of it. -/
theorem RunsListing.start {u : State} (hl : RunsListing c slot ops fin s₀) (hsp : s₀.seq.sp = .op 0)
    (hb : (runOps slot fin ops 0 s₀).status.busy = true)
    (h : runOn c fuel (runOps slot fin (ops.drop 0) 0 s₀) = some u) :
    exec c s₀ = .next (runOps slot fin ops 0 s₀) ∧ runToEnd c fuel (runOps slot fin ops 0 s₀) = some u := by
  refine ⟨hl s₀ [] _ 0 (.refl rfl) hsp, ?_⟩
  simpa [runOn, hb] using h

end Run

end Sys2Proof.Machine
end

