-- ==== Sys2Proof/Laws/PerInstr.lean ====
section
/-! SUPPORT. Statements made of every command, one lemma per constructor. -/

namespace Sys2Proof.Laws

/-- The four fields of a command's word are RSV 0, its IMM8, its SLOT and its operation code (30_encoding.md R102). -/
def EncodedFields.Statement (i : Instr) : Prop :=
  rsvOf (encode i) = 0 ∧ immOf (encode i) = i.imm8 ∧ slotOf (encode i) = i.slot ∧ opcOf (encode i) = i.opc

theorem encode_fields (i : Instr) : EncodedFields.Statement i :=
  ⟨rsvOf_packWord _ _ _ _, immOf_packWord _ _ _ _, slotOf_packWord _ _ _ _, opcOf_packWord _ _ _ _⟩

theorem EncodedFields.resetInit (slot : Byte) : EncodedFields.Statement (.resetInit slot) :=
  encode_fields _

theorem EncodedFields.applyDefaults (slot : Byte) : EncodedFields.Statement (.applyDefaults slot) :=
  encode_fields _

theorem EncodedFields.setSpeed (slot rate : Byte) : EncodedFields.Statement (.setSpeed slot rate) :=
  encode_fields _

theorem EncodedFields.setRfMode (slot : Byte) : EncodedFields.Statement (.setRfMode slot) :=
  encode_fields _

theorem EncodedFields.setRfPower (slot imm8 : Byte) : EncodedFields.Statement (.setRfPower slot imm8) :=
  encode_fields _

theorem EncodedFields.transceive (slot imm8 : Byte) : EncodedFields.Statement (.transceive slot imm8) :=
  encode_fields _

theorem EncodedFields.getError (slot : Byte) : EncodedFields.Statement (.getError slot) :=
  encode_fields _

theorem EncodedFields.getCollPos (slot : Byte) : EncodedFields.Statement (.getCollPos slot) :=
  encode_fields _

theorem EncodedFields.getSpeeds (slot : Byte) : EncodedFields.Statement (.getSpeeds slot) :=
  encode_fields _

theorem EncodedFields.getCarrier (slot : Byte) : EncodedFields.Statement (.getCarrier slot) :=
  encode_fields _

theorem EncodedFields.getMaxFrame (slot : Byte) : EncodedFields.Statement (.getMaxFrame slot) :=
  encode_fields _

theorem EncodedFields.clearBits (slot : Byte) : EncodedFields.Statement (.clearBits slot) :=
  encode_fields _

theorem EncodedFields.setBits (slot : Byte) : EncodedFields.Statement (.setBits slot) :=
  encode_fields _

theorem EncodedFields.setMasked (slot : Byte) : EncodedFields.Statement (.setMasked slot) :=
  encode_fields _

theorem EncodedFields.applyTable (slot : Byte) : EncodedFields.Statement (.applyTable slot) :=
  encode_fields _

theorem EncodedFields.deriveTimer (slot : Byte) : EncodedFields.Statement (.deriveTimer slot) :=
  encode_fields _

theorem EncodedFields.armTimer (slot : Byte) : EncodedFields.Statement (.armTimer slot) :=
  encode_fields _

end Sys2Proof.Laws
end

