-- ==== Sys2Proof/Tests/Slice0.lean ====
section
/-! SUPPORT. Tests against the spec's own words, examples and vectors, each on one word or one step, and a witness for
the hypotheses of every statement. -/

namespace Sys2Proof.Tests

open Sys2Proof.Machine Sys2Proof.Safety

/-! ## Well-formedness -/

/-- 30_encoding.md R112: IMM8[7:1] != 0 for SET_RF_POWER. -/
theorem test_ill_formed_setRfPower : (Instr.setRfPower 0 0x02).WellFormed = false := by decide
/-- 30_encoding.md R112: IMM8[7:1] != 0 for TRANSCEIVE. -/
theorem test_ill_formed_transceive : (Instr.transceive 0 0x80).WellFormed = false := by decide
/-- 30_encoding.md R109: SET_SPEED takes every IMM8, and the flag commands take 0 and 1. -/
theorem test_well_formed : (Instr.setSpeed 0 0xFF).WellFormed = true ∧ (Instr.setRfPower 0 0).WellFormed = true ∧
    (Instr.transceive 0 1).WellFormed = true := by decide

/-! ## Decoding: every command's word, written out from R102 and R110 -/

theorem test_decode_resetInit : decode 0x00000301 = .ok (.resetInit 3) := by decide
theorem test_decode_applyDefaults : decode 0x00008002 = .ok (.applyDefaults 0x80) := by decide
theorem test_decode_setSpeed : decode 0x00FF0103 = .ok (.setSpeed 1 0xFF) := by decide
theorem test_decode_setRfMode : decode 0x00000204 = .ok (.setRfMode 2) := by decide
theorem test_decode_setRfPower : decode 0x00010405 = .ok (.setRfPower 4 1) := by decide
theorem test_decode_transceive : decode 0x00010506 = .ok (.transceive 5 1) := by decide
theorem test_decode_getError : decode 0x00000607 = .ok (.getError 6) := by decide
theorem test_decode_getCollPos : decode 0x00000708 = .ok (.getCollPos 7) := by decide
theorem test_decode_getSpeeds : decode 0x00000309 = .ok (.getSpeeds 3) := by decide
theorem test_decode_getCarrier : decode 0x0000090A = .ok (.getCarrier 9) := by decide
theorem test_decode_getMaxFrame : decode 0x0000010B = .ok (.getMaxFrame 1) := by decide
theorem test_decode_clearBits : decode 0x00004010 = .ok (.clearBits 0x40) := by decide
theorem test_decode_setBits : decode 0x00002011 = .ok (.setBits 0x20) := by decide
theorem test_decode_setMasked : decode 0x00001112 = .ok (.setMasked 0x11) := by decide
theorem test_decode_applyTable : decode 0x00001213 = .ok (.applyTable 0x12) := by decide
theorem test_decode_deriveTimer : decode 0x00001314 = .ok (.deriveTimer 0x13) := by decide
theorem test_decode_armTimer : decode 0x0000FF15 = .ok (.armTimer 0xFF) := by decide

/-- 30_encoding.md R112, one word of each kind; the reserved bits are tested first (R103). -/
theorem test_decode_illegal :
    decode 0x00000000 = .error .unknownOpcode ∧ decode 0x0000000C = .error .unknownOpcode ∧
    decode 0x00000016 = .error .unknownOpcode ∧ decode 0x01000001 = .error .reservedBits ∧
    decode 0x80FF000C = .error .reservedBits ∧ decode 0x00010001 = .error .immediateNotZero ∧
    decode 0x00020005 = .error .flagNotBoolean ∧ decode 0x00FE0006 = .error .flagNotBoolean := by decide

/-- The bytes of 0x00030203 in host-bus order (20_memory.md R69), the table's numbering of the same word, and the
word's encoder. -/
theorem test_bytes_and_encode :
    decodeBytes [0x03, 0x02, 0x03, 0x00] = .ok (.setSpeed 2 3) ∧
    decodeTableWord 32 0x00030203 = some (.setSpeed 2 3) ∧ encode (.setSpeed 2 3) = 0x00030203 := by decide

/-! ## One step of each command -/

/-- The parameters of 95_test_vectors.md section 0: the default ASIC_REGMAP, a table of two entries, and the candidate
profiles of 43_link_config.md R222. -/
def params : Params where
  regs := RegMap.default
  defaults := [(0x23, 0x63), (0x24, 0x63)]
  profiles :=
    { r106k := ⟨0x03, 0x00, 0x88, 0x00, 0x18, 0x13⟩
      r212k := ⟨0x02, 0x01, 0x50, 0x0C, 0x10, 0x07⟩
      r424k := ⟨0x01, 0x01, 0x50, 0x0C, 0x08, 0x03⟩
      r848k := ⟨0x00, 0x01, 0x50, 0x0C, 0x00, 0x01⟩ }
  txMax := 256
  pollLimit := none

/-- SEQ runs the command word `w` and is at `sp`, with the latched operands and ENV's answers given. -/
def running (w : Word) (sp : Sp) (larg0 larg1 larg2 : Word) (answers : List Answer) : State :=
  { State.reset with
    cfg := params
    cmd := w
    status := { Status.reset with busy := true, phase := phaseAt sp }
    mem := [(0x100, 0x23), (0x101, 0x63), (0x102, 0x24), (0x103, 0x63)]
    seq := { Seq.idle with lcmd := w, larg0 := larg0, larg1 := larg1, larg2 := larg2, sp := sp }
    envIn := answers }

/-- The state a command's step answers. -/
def after (i : Instr) (s : State) : Option State :=
  match exec i s with
  | .next t => some t
  | .fault _ => none
  | .refused _ => none

/-- What the step did at the port, newest first. -/
def portOf (i : Instr) (s : State) : Option (List PortEvent) :=
  (after i s).map fun t => t.trace

/-- RESULT and STATUS after the step. -/
def endOf (i : Instr) (s : State) : Option (Word × Word) :=
  (after i s).map fun t => (t.result, t.status.toWord)

/-- The state with the value v that a register procedure has read. -/
def withV (v : Byte) (s : State) : State :=
  { s with seq := { s.seq with v := v } }

/-- R260, its example: CONTROL reads 0x00 and is written 0x10. -/
theorem test_resetInit_powerDown :
    portOf (.resetInit 2) (withV 0 (running 0x201 (.op 1) 0 0 0 [.ok []])) = some [.regWrite 2 0x09 0x10 true] := by
  decide
/-- R260: a POWERDOWN bit already set needs no write, and the hold of 10 ms still runs. -/
theorem test_resetInit_hold :
    portOf (.resetInit 2) (withV 0x10 (running 0x201 (.op 1) 0 0 0 [.ok []])) = some [.hold 10000] := by decide
/-- R221: a failed flush reports 0xFFFF with TRANSPORT. -/
theorem test_applyDefaults_flush_fails :
    endOf (.applyDefaults 0) (running 0x02 (.op 0) 0 0 0 [.fail]) = some (0xFFFF, 0x0106) := by decide
/-- R221, R134: after its last entry the table ends with the entry count. -/
theorem test_applyDefaults_count :
    endOf (.applyDefaults 0)
      { running 0x02 (.op 3) 0 0 0 [] with seq := { Seq.idle with lcmd := 0x02, sp := .op 3, k := 1 } } =
      some (2, 0x0002) := by decide
/-- R223, its example: RX_CONTROL1 reads 0x00 under profile 1 and is written 0x02. -/
theorem test_setSpeed_subcp :
    portOf (.setSpeed 0 1) (withV 0 (running 0x10003 (.op 1) 0 0 0 [.ok []])) = some [.regWrite 0 0x19 0x02 true] := by
  decide
/-- TV-S2: IMM8 4 ends with CONFIG. -/
theorem test_setSpeed_range : endOf (.setSpeed 0 4) (running 0x40003 (.op 0) 0 0 0 [.fail]) = some (0, 0x0506) := by
  decide
/-- R226, its example: LARG0 0x0E07 writes 0x07 to BIT_FRAMING. -/
theorem test_setRfMode_framing :
    portOf (.setRfMode 0) (running 0x04 (.op 0) 0x0E07 0 0 [.ok []]) = some [.regWrite 0 0x0F 0x07 true] := by decide
/-- R226, its example: LARG0 0x0E07 writes 0x0D to CHANNEL_REDUNDANCY. -/
theorem test_setRfMode_redundancy :
    portOf (.setRfMode 0) (withV 0 (running 0x04 (.op 2) 0x0E07 0 0 [.ok []])) = some [.regWrite 0 0x22 0x0D true] := by
  decide
/-- R261, its example: TX_CONTROL reads 0x58 and is written 0x5B. -/
theorem test_setRfPower_on :
    portOf (.setRfPower 0 1) (withV 0x58 (running 0x10005 (.op 1) 0 0 0 [.ok []])) =
      some [.regWrite 0 0x11 0x5B true] := by decide
/-- R261: off keeps the other TX_CONTROL bits. -/
theorem test_setRfPower_off :
    portOf (.setRfPower 0 0) (withV 0x5B (running 0x05 (.op 1) 0 0 0 [.ok []])) =
      some [.regWrite 0 0x11 0x58 true] := by decide
/-- R174: with tx_len 0 a FifoWrite of length 0 is still issued. -/
theorem test_transceive_empty_frame :
    portOf (.transceive 1 0) (running 0x106 .firstChunk 0 2 500 [.ok []]) = some [.fifoWrite 1 [] true] := by decide
/-- R319, its example: ERROR_FLAG with both ERR_COLL and ERR_CRC and CRC_ABORT 1 is LINK. -/
theorem test_transceive_link_over_crc :
    endOf (.transceive 1 0)
      { running 0x106 .testError 0 2 500 [] with
        ctrl := ⟨true, false, false⟩, seq := { Seq.idle with lcmd := 0x106, sp := .testError, e := 0x09 } } =
      some (0, 0x6306) := by decide
/-- R228, its example. -/
theorem test_getError : endOf (.getError 0) (withV 0x01 (running 0x07 (.op 1) 0 0 0 [])) = some (1, 0x0002) := by decide
/-- R229, its example. -/
theorem test_getCollPos : endOf (.getCollPos 0) (withV 0x13 (running 0x08 (.op 1) 0 0 0 [])) = some (0x13, 0x0002) := by
  decide
/-- R280, its example. -/
theorem test_getSpeeds : endOf (.getSpeeds 3) (running 0x309 (.op 0) 0 0 0 []) = some (0x0000000F, 0x0002) := by decide
/-- R281, its example. -/
theorem test_getCarrier : endOf (.getCarrier 0) (running 0x0A (.op 0) 0 0 0 []) = some (0x00CEE8C0, 0x0002) := by decide
/-- R282, its example. -/
theorem test_getMaxFrame : endOf (.getMaxFrame 0) (running 0x0B (.op 0) 0 0 0 []) = some (0x00000040, 0x0002) := by
  decide
/-- R135, its example: register 0x09 reads 0x18, mask 0x10, and is written 0x08. -/
theorem test_clearBits :
    portOf (.clearBits 0) (withV 0x18 (running 0x10 (.op 1) 0x1009 0 0 [.ok []])) =
      some [.regWrite 0 0x09 0x08 true] := by decide
/-- R136, its example: register 0x11 reads 0x58, mask 0x03, and is written 0x5B. -/
theorem test_setBits :
    portOf (.setBits 0) (withV 0x58 (running 0x11 (.op 1) 0x0311 0 0 [.ok []])) =
      some [.regWrite 0 0x11 0x5B true] := by decide
/-- R137, its example: register 0x14 reads 0x19, mask 0x38, bits 0x10, and is written 0x11. -/
theorem test_setMasked :
    portOf (.setMasked 0) (withV 0x19 (running 0x12 (.op 1) 0x103814 0 0 [.ok []])) =
      some [.regWrite 0 0x14 0x11 true] := by decide
/-- R138, its example: entry 0 of TXBUF = 0x23, 0x63, 0x24, 0x63. -/
theorem test_applyTable_entry :
    portOf (.applyTable 0) (running 0x13 (.op 0) 2 0 0 [.ok []]) = some [.regWrite 0 0x23 0x63 true] := by decide
/-- R138: a count of 129 exceeds TX_MAX/2. -/
theorem test_applyTable_config : endOf (.applyTable 0) (running 0x13 (.op 0) 129 0 0 [.fail]) = some (0, 0x0506) := by
  decide
/-- R154, its example: T = 1000 gives (6, 212). -/
theorem test_deriveTimer : endOf (.deriveTimer 0) (running 0x14 (.op 0) 0 0 1000 []) = some (0x0000D406, 0x0002) := by
  decide
/-- R152: T = 1,000,000 has no pair. -/
theorem test_deriveTimer_range : endOf (.deriveTimer 0) (running 0x14 (.op 0) 0 0 1000000 []) = some (0, 0x0606) := by
  decide
/-- R155, its example: T = 1000 first writes 0x06 to TIMER_CLOCK. -/
theorem test_armTimer :
    portOf (.armTimer 0) (running 0x15 (.op 0) 0 0 1000 [.ok []]) = some [.regWrite 0 0x2A 0x06 true] := by decide

/-! ## Host bus -/

/-- The block idle, with one turn of HOST due. -/
def hostState (turn : HostTurn) : State :=
  { State.reset with cfg := params, hostIn := [turn] }

/-- The block running a command, with one turn of HOST due. -/
def busyHostState (turn : HostTurn) : State :=
  { running 0x201 (.op 0) 0 0 0 [] with hostIn := [turn] }

/-- R69: a 4-byte TXBUF write of 0x44332211 stores its low byte first. -/
theorem test_txbuf_little_endian :
    (match hostWrite 0x100 .four 0x44332211 (hostState .quiet) with
      | .next t => t.mem.map fun cell => (cell.1, cell.2)
      | .fault _ => []
      | .refused _ => []) = [(0x100, 0x11), (0x101, 0x22), (0x102, 0x33), (0x103, 0x44)] := by decide

/-- The host's fetch of an instruction: the very next step from reset runs GET_MAX_FRAME. -/
theorem test_withFetchWord :
    (match step (State.reset.withFetchWord 32 0x0000010B) with
      | .next t => (t.result, t.status.toWord)
      | .fault _ => (0, 0)
      | .refused _ => (0, 0)) = (0x00000040, 0x00000002) := by decide

/-! ## Witnesses: a concrete state and operands that meet the hypotheses of each statement, clause by clause -/

theorem witness_DecodeOfEncodeGivesTheCommand :
    (Instr.setSpeed 0xFF 0xFF).WellFormed = true ∧ (Instr.transceive 0xFF 1).WellFormed = true := by decide

theorem witness_EncodeOfDecodeGivesTheWord : decode 0x00FFFF03 = .ok (.setSpeed 0xFF 0xFF) := by decide

theorem witness_IllegalWordEndsWithIllegal :
    ∃ s : State, s.hostIn = [] ∧ s.status.busy = true ∧ decode s.seq.lcmd = .error .unknownOpcode :=
  ⟨running 0x16 (.op 0) 0 0 0 [], by decide⟩

theorem witness_StepRunsTheDecodedCommand :
    (∃ s : State, s.status.busy = true ∧ decode s.seq.lcmd = .ok (.resetInit 2) ∧ s.hostIn = []) ∧
    ∃ s : State, s.status.busy = true ∧ decode s.seq.lcmd = .ok (.resetInit 2) ∧ s.hostIn = .quiet :: [] :=
  ⟨⟨running 0x201 (.op 0) 0 0 0 [], by decide⟩, ⟨busyHostState .quiet, by decide⟩⟩

theorem witness_CmdWriteIsAcceptedOrSetsOverrun :
    (∃ s : State, s.hostIn = .write 0x000 .four 0x0B :: [] ∧ s.status.busy = true) ∧
    ∃ s : State, s.hostIn = .write 0x000 .four 0x0B :: [] ∧ s.status.busy = false :=
  ⟨⟨busyHostState (.write 0x000 .four 0x0B), by decide⟩, ⟨hostState (.write 0x000 .four 0x0B), by decide⟩⟩

theorem witness_RegisterReadsReturnTheRegisters :
    ∀ o ∈ ([0x000, 0x004, 0x008, 0x00C, 0x010, 0x014, 0x018] : List (BitVec 12)),
      ∃ s : State, s.hostIn = .read o .four :: [] :=
  fun o _ => ⟨hostState (.read o .four), rfl⟩

theorem witness_StatusWriteClearsOnlyWhatItNames :
    (∃ s : State, s.hostIn = .write 0x004 .four 0x16 :: []) ∧ ∃ s : State, s.hostIn = .read 0x004 .four :: [] :=
  ⟨⟨hostState (.write 0x004 .four 0x16), rfl⟩, ⟨hostState (.read 0x004 .four), rfl⟩⟩

theorem witness_RegisterWritesTakeEffectOrAreIgnored :
    (∀ o ∈ ([0x008, 0x00C, 0x010, 0x014, 0x018] : List (BitVec 12)),
      ∃ s : State, s.hostIn = .write o .four 5 :: []) ∧
    (∀ o ∈ ([0x01C, 0x0FF, 0x200, 0x2FF, 0x300, 0xFFF] : List (BitVec 12)),
      (0x01C ≤ o.toNat ∧ (o.toNat < 0x100 ∨ 0x200 ≤ o.toNat) ∧ o.toNat % AccessSize.one.bytes = 0) ∧
        ∃ s : State, s.hostIn = .write o .one 5 :: []) :=
  ⟨fun o _ => ⟨hostState (.write o .four 5), rfl⟩, fun o ho => ⟨by revert o; decide, hostState (.write o .one 5), rfl⟩⟩

theorem witness_HostBusAnswersExactlyTheLegalAccesses :
    ((0x102 : BitVec 12).toNat % AccessSize.four.bytes ≠ 0 ∧
      (0x018 : BitVec 12).toNat < 0x01C ∧ AccessSize.two ≠ AccessSize.four) ∧
    ((0x018 : BitVec 12).toNat % AccessSize.four.bytes = 0 ∧ (0x01C : BitVec 12).toNat % AccessSize.one.bytes = 0 ∧
      ¬ (0x01C : BitVec 12).toNat < 0x01C) ∧
    (0x100 ≤ (0x1FF : BitVec 12).toNat ∧ (0x1FF : BitVec 12).toNat < 0x200 ∧
      (0x1FF : BitVec 12).toNat % AccessSize.one.bytes = 0 ∧ (busyHostState .quiet).status.busy = true) ∧
    (0x200 ≤ (0x200 : BitVec 12).toNat ∧ (0x0FF : BitVec 12).toNat < 0x100 ∧
      (hostState .quiet).status.busy = false) := by
  decide

theorem witness_TxbufWriteReadsBackLittleEndian :
    0x100 ≤ (0x1FC : BitVec 12).toNat ∧ (0x1FC : BitVec 12).toNat < 0x200 ∧
      (0x1FC : BitVec 12).toNat % AccessSize.four.bytes = 0 ∧ (hostState .quiet).status.busy = false := by
  decide

theorem witness_BlockResetLeavesTheResetValues :
    ∃ s : State, s.hostIn = .reset :: [] ∧ s.status.busy = true := ⟨busyHostState .reset, by decide⟩

theorem witness_IrqOutRisesAtTheEndAndIsCleared :
    (∃ s t : State, exec (.getSpeeds 0) s = .next t ∧ s.status.busy = true ∧ t.status.busy = false) ∧
    (∃ s : State, s.hostIn = .write 0x004 .four 0x02 :: [] ∧ (0x02 : Word).getLsbD 1 = true) ∧
    ∃ s : State, s.hostIn = .write 0x000 .four 0x0B :: [] ∧ s.status.busy = false :=
  ⟨⟨running 0x09 (.op 0) 0 0 0 [], _, rfl, rfl, rfl⟩, ⟨hostState (.write 0x004 .four 0x02), rfl, by decide⟩,
    ⟨hostState (.write 0x000 .four 0x0B), rfl, rfl⟩⟩

theorem witness_SeqWaitsWhileIdle : State.reset.status.busy = false ∧ State.reset.hostIn = [] := by decide

theorem witness_ArgWritesDoNotReachARunningCommand :
    ∃ t, exec (.clearBits 0) (running 0x10 (.op 0) 0x1009 0 0 [.ok [0x18]]) = .next t ∧ t.status.busy = true :=
  ⟨_, rfl, by decide⟩

theorem witness_EveryStepKeepsTheInvariant :
    ∃ s t : State, BlockInv s = true ∧ step s = .next t ∧ s.status.busy = true :=
  ⟨running 0x106 .firstChunk 1 2 500 [.ok []], _, by decide, rfl, rfl⟩

theorem witness_NoStepChangesTheParameters : ∃ s t : State, step s = .next t ∧ s.status.busy = true :=
  ⟨busyHostState (.write 0x008 .four 7), _, rfl, rfl⟩

theorem witness_CommandStepsKeepTheHostSide :
    ∃ t, exec (.transceive 1 0) (running 0x106 .drainRead 1 2 500 [.ok [1, 2]]) = .next t := ⟨_, rfl⟩

theorem witness_OnlyTransceiveWritesRxbufAndPhase :
    ∃ t, (∀ slot x, Instr.applyTable 0 ≠ .transceive slot x) ∧
      exec (.applyTable 0) (running 0x13 (.op 0) 2 0 0 [.ok []]) = .next t :=
  ⟨_, fun _ _ h => (by cases h), rfl⟩

theorem witness_RunningCommandKeepsResultFlagsAndLatches :
    ∃ s t : State, exec (.setBits 0) s = .next t ∧ s.status.busy = true ∧ t.status.busy = true :=
  ⟨running 0x11 (.op 0) 0x0311 0 0 [.ok [0x58]], _, rfl, rfl, by decide⟩

theorem witness_CommandEndSetsDoneAndShowsAnyError :
    (∃ s t : State, exec (.getSpeeds 0) s = .next t ∧ s.status.busy = true ∧ t.status.busy = false ∧
      t.status.ecode = .none) ∧
    ∃ s t : State, exec (.setSpeed 0 4) s = .next t ∧ s.status.busy = true ∧ t.status.busy = false ∧
      t.status.ecode = .config :=
  ⟨⟨running 0x09 (.op 0) 0 0 0 [], _, rfl, rfl, rfl, rfl⟩, ⟨running 0x40003 (.op 0) 0 0 0 [], _, rfl, rfl, rfl, rfl⟩⟩

theorem witness_OneTransactionAStepWithTheCommandsSlot :
    ∃ t, exec (.resetInit 2) (running 0x201 (.op 0) 0 0 0 [.ok [0]]) = .next t ∧ t.txns = 1 := ⟨_, rfl, by decide⟩

theorem witness_FailedTransactionEndsTheCommand :
    (∃ s t : State, s.nextAnswer = .fail ∧ exec (.resetInit 2) s = .next t ∧ t.txns = s.txns + 1 ∧
      ∀ slot, Instr.resetInit 2 ≠ .applyTable slot ∧ Instr.resetInit 2 ≠ .applyDefaults slot) ∧
    ∃ s t : State, s.nextAnswer = .fail ∧ exec (.applyTable 0) s = .next t ∧ t.txns = s.txns + 1 :=
  ⟨⟨running 0x201 (.op 0) 0 0 0 [.fail], _, by decide, rfl, by decide, fun _ => ⟨by simp, by simp⟩⟩,
    ⟨running 0x13 (.op 0) 1 0 0 [.fail], _, by decide, rfl, by decide⟩⟩

/-- A read of 0x18 under the mask 0x10, and the write of 0x08 it needs; and one that needs no write. -/
theorem witness_ClearBitsReadsAndWritesOnlyWhenNeeded :
    (∃ s : State, AtFirstStep s ∧
      some 0x08 = (if (0x18 : Byte) &&& s.seq.larg0.extractLsb' 8 8 = 0 then none
        else some (0x18 &&& ~~~(s.seq.larg0.extractLsb' 8 8))) ∧ s.envIn = updateAnswers 0x18 (some 0x08) ++ []) ∧
    ∃ s : State, AtFirstStep s ∧
      none = (if (0x08 : Byte) &&& s.seq.larg0.extractLsb' 8 8 = 0 then none
        else some (0x08 &&& ~~~(s.seq.larg0.extractLsb' 8 8))) ∧ s.envIn = updateAnswers 0x08 none ++ [] :=
  ⟨⟨running 0x10 (.op 0) 0x1009 0 0 [.ok [0x18], .ok []], ⟨rfl, rfl⟩, by decide, rfl⟩,
    ⟨running 0x10 (.op 0) 0x1009 0 0 [.ok [0x08]], ⟨rfl, rfl⟩, by decide, rfl⟩⟩

theorem witness_SetBitsReadsAndWritesOnlyWhenNeeded :
    (∃ s : State, AtFirstStep s ∧
      some 0x5B = (if (0x58 : Byte) &&& s.seq.larg0.extractLsb' 8 8 = s.seq.larg0.extractLsb' 8 8 then none
        else some (0x58 ||| s.seq.larg0.extractLsb' 8 8)) ∧ s.envIn = updateAnswers 0x58 (some 0x5B) ++ []) ∧
    ∃ s : State, AtFirstStep s ∧
      none = (if (0x5B : Byte) &&& s.seq.larg0.extractLsb' 8 8 = s.seq.larg0.extractLsb' 8 8 then none
        else some (0x5B ||| s.seq.larg0.extractLsb' 8 8)) ∧ s.envIn = updateAnswers 0x5B none ++ [] :=
  ⟨⟨running 0x11 (.op 0) 0x0311 0 0 [.ok [0x58], .ok []], ⟨rfl, rfl⟩, by decide, rfl⟩,
    ⟨running 0x11 (.op 0) 0x0311 0 0 [.ok [0x5B]], ⟨rfl, rfl⟩, by decide, rfl⟩⟩

theorem witness_SetMaskedReplacesTheField :
    (∃ s : State, AtFirstStep s ∧ 0x38 = s.seq.larg0.extractLsb' 8 8 ∧ 0x10 = s.seq.larg0.extractLsb' 16 8 ∧
      some 0x11 = (if (0x19 : Byte) &&& 0x38 = 0x10 then none
        else some ((0x19 &&& ~~~(0x38 : Byte)) ||| ((0x10 : Byte) &&& 0x38))) ∧
      s.envIn = updateAnswers 0x19 (some 0x11) ++ []) ∧
    ∃ s : State, AtFirstStep s ∧ 0x38 = s.seq.larg0.extractLsb' 8 8 ∧ 0x10 = s.seq.larg0.extractLsb' 16 8 ∧
      none = (if (0x11 : Byte) &&& 0x38 = 0x10 then none
        else some ((0x11 &&& ~~~(0x38 : Byte)) ||| ((0x10 : Byte) &&& 0x38))) ∧
      s.envIn = updateAnswers 0x11 none ++ [] :=
  ⟨⟨running 0x12 (.op 0) 0x103814 0 0 [.ok [0x19], .ok []], ⟨rfl, rfl⟩, by decide, by decide, by decide, rfl⟩,
    ⟨running 0x12 (.op 0) 0x103814 0 0 [.ok [0x11]], ⟨rfl, rfl⟩, by decide, by decide, by decide, rfl⟩⟩

theorem witness_PrimitivesAreIdempotent : (0x10 : Byte) &&& ~~~(0x38 : Byte) = 0 := by decide

/-- The most entries and the fewest. -/
theorem witness_ApplyTableWritesItsEntriesInOrder :
    (∃ s : State, AtFirstStep s ∧ 128 = (s.seq.larg0.extractLsb' 0 16).toNat ∧ 128 ≤ s.cfg.txMax / 2 ∧
      s.envIn = List.replicate 128 (.ok []) ++ []) ∧
    ∃ s : State, AtFirstStep s ∧ 0 = (s.seq.larg0.extractLsb' 0 16).toNat ∧ 0 ≤ s.cfg.txMax / 2 ∧
      s.envIn = List.replicate 0 (.ok []) ++ [] :=
  ⟨⟨running 0x13 (.op 0) 128 0 0 (List.replicate 128 (.ok [])), ⟨rfl, rfl⟩, by decide, by decide, by simp [running]⟩,
    ⟨running 0x13 (.op 0) 0 0 0 [], ⟨rfl, rfl⟩, by decide, by decide, rfl⟩⟩

theorem witness_TableCommandsReportWhereTheyFailed :
    (∃ s : State, s.nextAnswer = .fail ∧ s.seq.sp = .op 0 ∧ 0 < (s.seq.larg0.extractLsb' 0 16).toNat ∧
      (s.seq.larg0.extractLsb' 0 16).toNat ≤ s.cfg.txMax / 2 ∧ 0x23 = s.bufByte (0x100 + 2 * 0) ∧
      0x63 = s.bufByte (0x100 + (2 * 0 + 1))) ∧
    (∃ s : State, s.nextAnswer = .fail ∧ s.seq.sp = .op 1 ∧ 1 = s.seq.k + 1 ∧
      1 < (s.seq.larg0.extractLsb' 0 16).toNat ∧ (s.seq.larg0.extractLsb' 0 16).toNat ≤ s.cfg.txMax / 2 ∧
      0x24 = s.bufByte (0x100 + 2 * 1) ∧ 0x63 = s.bufByte (0x100 + (2 * 1 + 1))) ∧
    (∃ s : State, s.nextAnswer = .fail ∧ s.seq.sp = .op 2 ∧ s.cfg.defaults[0]? = some (0x23, 0x63)) ∧
    (∃ s : State, s.nextAnswer = .fail ∧ s.seq.sp = .op 1 ∧
      s.seq.v &&& s.cfg.regs.flushFifo = s.cfg.regs.flushFifo ∧ s.cfg.defaults[0]? = some (0x23, 0x63)) ∧
    (∃ s : State, s.nextAnswer = .fail ∧ s.seq.sp = .op 3 ∧ 1 = s.seq.k + 1 ∧
      s.cfg.defaults[1]? = some (0x24, 0x63)) ∧
    (∃ s : State, s.nextAnswer = .fail ∧ s.seq.sp = .op 0) ∧
    ∃ s : State, s.nextAnswer = .fail ∧ s.seq.sp = .op 1 ∧
      s.seq.v &&& s.cfg.regs.flushFifo ≠ s.cfg.regs.flushFifo :=
  ⟨⟨running 0x13 (.op 0) 1 0 0 [.fail], by decide, rfl, by decide, by decide, by decide, by decide⟩,
    ⟨running 0x13 (.op 1) 2 0 0 [.fail], by decide, rfl, rfl, by decide, by decide, by decide, by decide⟩,
    ⟨running 0x02 (.op 2) 0 0 0 [.fail], by decide, rfl, by decide⟩,
    ⟨withV 0x01 (running 0x02 (.op 1) 0 0 0 [.fail]), by decide, rfl, by decide, by decide⟩,
    ⟨running 0x02 (.op 3) 0 0 0 [.fail], by decide, rfl, rfl, by decide⟩,
    ⟨running 0x02 (.op 0) 0 0 0 [.fail], by decide, rfl⟩, ⟨running 0x02 (.op 1) 0 0 0 [.fail], by decide, rfl, by decide⟩⟩

theorem witness_OutOfRangeOperandsEndWithConfig :
    4 ≤ (0x04 : Byte).toNat ∧
      ∃ s : State, s.cfg.txMax / 2 < (s.seq.larg0.extractLsb' 0 16).toNat :=
  ⟨by decide, running 0x13 (.op 0) 129 0 0 [], by decide⟩

theorem witness_DerivedTimerPairHasTheLeastOvershoot :
    deriveTimer 0 = some (0, 1) ∧ deriveTimer 19 = some (1, 129) ∧ deriveTimer 999999 = some (16, 206) := by decide

theorem witness_DeriveTimerReturnsThePairOrTimerRange :
    (∃ s : State, s.seq.larg2.toNat = 999999) ∧ ∃ s : State, s.seq.larg2.toNat = 1000000 :=
  ⟨⟨running 0x14 (.op 0) 0 0 999999 [], by decide⟩, ⟨running 0x14 (.op 0) 0 0 1000000 [], by decide⟩⟩

theorem witness_ArmTimerWritesFiveRegistersInOrder :
    (∃ s : State, AtFirstStep s ∧ deriveTimer s.seq.larg2.toNat = some (6, 212) ∧
      s.envIn = List.replicate 5 (.ok []) ++ []) ∧
    ∃ s : State, AtFirstStep s ∧ 999999 < s.seq.larg2.toNat :=
  ⟨⟨running 0x15 (.op 0) 0 0 1000 (List.replicate 5 (.ok [])), ⟨rfl, rfl⟩, by decide, rfl⟩,
    ⟨running 0x15 (.op 0) 0 0 1000000 [], ⟨rfl, rfl⟩, by decide⟩⟩

theorem witness_ApplyDefaultsFlushesThenWritesTheTable :
    ∃ s : State, AtFirstStep s ∧
      some 0x01 = (if (0x00 : Byte) &&& s.cfg.regs.flushFifo = s.cfg.regs.flushFifo then none
        else some (0x00 ||| s.cfg.regs.flushFifo)) ∧
      s.envIn = updateAnswers 0x00 (some 0x01) ++ List.replicate s.cfg.defaults.length (.ok []) ++ [] :=
  ⟨running 0x02 (.op 0) 0 0 0 [.ok [0x00], .ok [], .ok [], .ok []], ⟨rfl, rfl⟩, by decide, by decide⟩

/-- The first rate, a Manchester profile, and the last, a BPSK one, every register reading 0x00. -/
theorem witness_SetSpeedAppliesTheProfile :
    (∃ s : State, AtFirstStep s ∧
      [s.cfg.profiles.r106k, s.cfg.profiles.r212k, s.cfg.profiles.r424k, s.cfg.profiles.r848k][(0 : Byte).toNat]? =
        some params.profiles.r106k ∧
      s.envIn =
        updateAnswers 0 (maskedValue 0 s.cfg.regs.subcpMask params.profiles.r106k.subcp) ++
        updateAnswers 0 (maskedValue 0 s.cfg.regs.codingMask params.profiles.r106k.coding) ++
        updateAnswers 0 (maskedValue 0 0xFF params.profiles.r106k.threshold) ++
        (if params.profiles.r106k.coding = s.cfg.regs.codingBpsk then updateAnswers 0 (maskedValue 0 0xFF params.profiles.r106k.bpskdem) else []) ++
        updateAnswers 0 (maskedValue 0 s.cfg.regs.coderrateMask params.profiles.r106k.coderrate) ++
        updateAnswers 0 (maskedValue 0 0xFF params.profiles.r106k.modwidth) ++ []) ∧
    ∃ s : State, AtFirstStep s ∧
      [s.cfg.profiles.r106k, s.cfg.profiles.r212k, s.cfg.profiles.r424k, s.cfg.profiles.r848k][(3 : Byte).toNat]? =
        some params.profiles.r848k ∧
      s.envIn =
        updateAnswers 0 (maskedValue 0 s.cfg.regs.subcpMask params.profiles.r848k.subcp) ++
        updateAnswers 0 (maskedValue 0 s.cfg.regs.codingMask params.profiles.r848k.coding) ++
        updateAnswers 0 (maskedValue 0 0xFF params.profiles.r848k.threshold) ++
        (if params.profiles.r848k.coding = s.cfg.regs.codingBpsk then updateAnswers 0 (maskedValue 0 0xFF params.profiles.r848k.bpskdem) else []) ++
        updateAnswers 0 (maskedValue 0 s.cfg.regs.coderrateMask params.profiles.r848k.coderrate) ++
        updateAnswers 0 (maskedValue 0 0xFF params.profiles.r848k.modwidth) ++ [] :=
  ⟨⟨running 0x00003 (.op 0) 0 0 0
      [.ok [0], .ok [], .ok [0], .ok [0], .ok [], .ok [0], .ok [], .ok [0], .ok []], ⟨rfl, rfl⟩, rfl, by decide⟩,
    ⟨running 0x30003 (.op 0) 0 0 0
      [.ok [0], .ok [0], .ok [], .ok [0], .ok [], .ok [0], .ok [], .ok [0], .ok [0], .ok []],
      ⟨rfl, rfl⟩, rfl, by decide⟩⟩

theorem witness_SetRfModeProgramsFramingCryptoAndRedundancy :
    (∃ s : State, AtFirstStep s ∧ 0x0E07 = s.seq.larg0 ∧
      none = (if (0x0E07 : Word).getLsbD 8 then setValue 0 s.cfg.regs.crypto1On
        else clearedValue 0 s.cfg.regs.crypto1On) ∧
      s.envIn = .ok [] :: updateAnswers 0 none ++ .ok [] :: []) ∧
    ∃ s : State, AtFirstStep s ∧ 0x0F07 = s.seq.larg0 ∧
      some 0x08 = (if (0x0F07 : Word).getLsbD 8 then setValue 0 s.cfg.regs.crypto1On
        else clearedValue 0 s.cfg.regs.crypto1On) ∧
      s.envIn = .ok [] :: updateAnswers 0 (some 0x08) ++ .ok [] :: [] :=
  ⟨⟨running 0x04 (.op 0) 0x0E07 0 0 [.ok [], .ok [0], .ok []], ⟨rfl, rfl⟩, rfl, by decide, rfl⟩,
    ⟨running 0x04 (.op 0) 0x0F07 0 0 [.ok [], .ok [0], .ok [], .ok []], ⟨rfl, rfl⟩, rfl, by decide, rfl⟩⟩

theorem witness_DiagnosticReadsReturnTheRawByte :
    (∃ s : State, AtFirstStep s ∧ Instr.getError 0 = .getError 0 ∧ 0x0A = s.cfg.regs.errorFlag ∧
      s.envIn = .ok [0x01] :: []) ∧
    (∃ s : State, AtFirstStep s ∧ Instr.getCollPos 0 = .getCollPos 0 ∧ 0x0B = s.cfg.regs.collPos ∧
      s.envIn = .fail :: []) :=
  ⟨⟨running 0x07 (.op 0) 0 0 0 [.ok [0x01]], ⟨rfl, rfl⟩, rfl, rfl, rfl⟩,
    ⟨running 0x08 (.op 0) 0 0 0 [.fail], ⟨rfl, rfl⟩, rfl, rfl, rfl⟩⟩

/-- R260, its example: CONTROL reads 0x00 then 0x10, TX_CONTROL 0x5B then 0x58. -/
theorem witness_ResetInitRunsTheBringUpSequence :
    ∃ s : State, AtFirstStep s ∧
      s.envIn =
        updateAnswers 0x00 (setValue 0x00 s.cfg.regs.powerdown) ++
        updateAnswers 0x10 (clearedValue 0x10 s.cfg.regs.powerdown) ++ [.ok [], .ok []] ++
        updateAnswers 0x5B (maskedValue 0x5B s.cfg.regs.rfEn 0) ++
        updateAnswers 0x58 (maskedValue 0x58 s.cfg.regs.rfEn s.cfg.regs.rfEn) ++ [] :=
  ⟨running 0x01 (.op 0) 0 0 0
      [.ok [0x00], .ok [], .ok [0x10], .ok [], .ok [], .ok [], .ok [0x5B], .ok [], .ok [0x58], .ok []],
    ⟨rfl, rfl⟩, by decide⟩

theorem witness_SetRfPowerSwitchesTheField :
    (∃ s : State, AtFirstStep s ∧ 0x03 = (if (0x01 : Byte).getLsbD 0 then s.cfg.regs.rfEn else 0) ∧
      some 0x5B = (if (0x58 : Byte) &&& s.cfg.regs.rfEn = 0x03 then none
        else some ((0x58 &&& ~~~s.cfg.regs.rfEn) ||| (0x03 &&& s.cfg.regs.rfEn))) ∧
      s.envIn = updateAnswers 0x58 (some 0x5B) ++ []) ∧
    ∃ s : State, AtFirstStep s ∧ 0x00 = (if (0x00 : Byte).getLsbD 0 then s.cfg.regs.rfEn else 0) ∧
      none = (if (0x58 : Byte) &&& s.cfg.regs.rfEn = 0x00 then none
        else some ((0x58 &&& ~~~s.cfg.regs.rfEn) ||| (0x00 &&& s.cfg.regs.rfEn))) ∧
      s.envIn = updateAnswers 0x58 none ++ [] :=
  ⟨⟨running 0x10005 (.op 0) 0 0 0 [.ok [0x58], .ok []], ⟨rfl, rfl⟩, by decide, by decide, rfl⟩,
    ⟨running 0x05 (.op 0) 0 0 0 [.ok [0x58]], ⟨rfl, rfl⟩, by decide, by decide, rfl⟩⟩

theorem witness_TransceiveChecksOperandsFirst :
    (∃ s : State, s.seq.sp = .op 0 ∧ 257 = (s.seq.larg0.extractLsb' 0 16).toNat ∧ s.cfg.txMax < 257) ∧
    (∃ s : State, s.seq.sp = .op 0 ∧ 256 = (s.seq.larg0.extractLsb' 0 16).toNat ∧ 256 ≤ s.cfg.txMax ∧
      s.seq.larg2.toNat = 100000) ∧
    ∃ s : State, s.seq.sp = .op 0 ∧ 256 = (s.seq.larg0.extractLsb' 0 16).toNat ∧ 256 ≤ s.cfg.txMax ∧
      s.seq.larg2.toNat = 99999 :=
  ⟨⟨running 0x06 (.op 0) 257 2 0 [], rfl, by decide, by decide⟩,
    ⟨running 0x06 (.op 0) 256 2 100000 [], rfl, by decide, by decide, by decide⟩,
    ⟨running 0x06 (.op 0) 256 2 99999 [], rfl, by decide, by decide, by decide⟩⟩

theorem witness_TransceiveArmsWithSevenWrites :
    ∃ s : State, s.seq.sp = .op 0 ∧ (s.seq.larg0.extractLsb' 0 16).toNat ≤ s.cfg.txMax ∧
      deriveTimer (10 * s.seq.larg2.toNat) = some (9, 133) ∧ s.envIn = List.replicate 7 (.ok []) ++ [] :=
  ⟨running 0x06 (.op 0) 7 2 500 (List.replicate 7 (.ok [])), rfl, by decide, by decide, rfl⟩

/-- At 64 bytes, and at 65, where bytes remain. -/
theorem witness_TransceiveWritesTheFirstChunkThenStarts :
    ∀ len ∈ ([64, 65] : List Nat), ∃ s : State, s.seq.sp = .firstChunk ∧
      len = (s.seq.larg0.extractLsb' 0 16).toNat ∧ s.envIn = .ok [] :: .ok [] :: .ok [0] :: [] := by
  have key : ∀ len : Nat, len < 65536 → ∃ s : State, s.seq.sp = .firstChunk ∧
      len = (s.seq.larg0.extractLsb' 0 16).toNat ∧ s.envIn = .ok [] :: .ok [] :: .ok [0] :: [] := fun len h =>
    ⟨running 0x06 .firstChunk (BitVec.ofNat 32 len) 2 500 [.ok [], .ok [], .ok [0]], rfl, by simp [running]; omega, rfl⟩
  intro len h
  simp only [List.mem_cons, List.not_mem_nil, or_false] at h
  exact key len (by omega)

/-- A fill of 63, of 64 with bytes left, and of 0 with all that is left. -/
theorem witness_TransceiveLaterChunksNeverOverfill :
    ∀ f ∈ ([63, 64, 0] : List Byte), ∃ s : State, s.seq.sp = .nextChunk ∧ s.seq.fill = f ∧
      80 = (s.seq.larg0.extractLsb' 0 16).toNat ∧ s.seq.txOff < 80 ∧ s.envIn = .ok [] :: .ok [0] :: [] :=
  fun f _ => ⟨{ running 0x06 .nextChunk 80 2 500 [.ok [], .ok [0]] with
      seq := { Seq.idle with larg0 := 80, sp := .nextChunk, txOff := 64, fill := f } },
    rfl, rfl, rfl, (by decide : 64 < 80), rfl⟩

/-- The first chunk's step, and the step that enters AWAIT. -/
theorem witness_TransceiveStreamsEveryByteOnceInOrder :
    (∃ s t : State, s.seq.sp ∈ [Sp.firstChunk, .startExchange, .streamEntry, .nextChunk, .streamBack] ∧
      s.status.phase = phaseAt s.seq.sp ∧ 1 = (s.seq.larg0.extractLsb' 0 16).toNat ∧ streamed s.seq ≤ 1 ∧
      exec (.transceive 1 0) s = .next t ∧ t.status.busy = true ∧ t.status.phase = .streaming) ∧
    ∃ s t : State, s.seq.sp ∈ [Sp.firstChunk, .startExchange, .streamEntry, .nextChunk, .streamBack] ∧
      s.status.phase = phaseAt s.seq.sp ∧ 1 = (s.seq.larg0.extractLsb' 0 16).toNat ∧ streamed s.seq ≤ 1 ∧
      exec (.transceive 1 0) s = .next t ∧ t.status.busy = true ∧ t.status.phase = .await :=
  ⟨⟨running 0x106 .firstChunk 1 2 500 [.ok []], _, by decide, rfl, by decide, by decide, rfl, by decide, by decide⟩,
    ⟨{ running 0x106 .streamEntry 1 2 500 [.ok [0]] with
        seq := { Seq.idle with larg0 := 1, sp := .streamEntry, chunk := 1 } },
      _, by decide, rfl, by decide, by decide, rfl, by decide, by decide⟩⟩

theorem witness_CompletionOnlyWhenCommandReadsZero :
    (∃ s : State, s.seq.sp = .pollCommand ∧ s.envIn = .ok [0x1E] :: []) ∧
    (∃ s : State, s.seq.sp = .pollStatus ∧ s.envIn = .ok [0] :: [] ∧ s.seq.c = 0x00) ∧
    (∃ s : State, s.seq.sp = .pollStatus ∧ s.envIn = .ok [0] :: [] ∧ s.seq.c ≠ 0x00) ∧
    ∃ s t : State, s.status.phase = .await ∧ phaseAt s.seq.sp = .await ∧ s.seq.sp ≠ .drainLength ∧
      exec (.transceive 1 0) s = .next t ∧ ¬ (s.seq.sp = .pollStatus ∧ s.seq.c = 0x00) ∧ t.status.busy = true :=
  ⟨⟨running 0x06 .pollCommand 1 2 500 [.ok [0x1E]], rfl, rfl⟩, ⟨running 0x06 .pollStatus 1 2 500 [.ok [0]], rfl, rfl, rfl⟩,
    ⟨{ running 0x06 .pollStatus 1 2 500 [.ok [0]] with seq := { Seq.idle with sp := .pollStatus, c := 0x1E } },
      rfl, rfl, by decide⟩,
    ⟨running 0x06 .pollCommand 1 2 500 [.ok [0]], _, rfl, rfl, by decide, rfl, by decide, by decide⟩⟩

theorem witness_PhaseFollowsTheStatesOfTheExchange :
    ∃ s t : State, s.status.phase = phaseAt s.seq.sp ∧ exec (.transceive 1 0) s = .next t ∧
      s.status.phase = .await ∧ t.status.phase = .drain :=
  ⟨running 0x06 .drainLength 1 2 500 [.ok [0]], _, rfl, rfl, rfl, by decide⟩

/-- TRANSCEIVE at `sp` with the poll values s, e and q given. -/
def polling (sp : Sp) (s e q : Byte) (answers : List Answer) : State :=
  { running 0x06 sp 1 2 500 answers with seq := { Seq.idle with larg0 := 1, larg1 := 2, sp := sp, s := s, e := e, q := q } }

/-- The same with another POLL_LIMIT. -/
def limited (limit : Option Nat) (s : State) : State :=
  { s with cfg := { s.cfg with pollLimit := limit } }

theorem witness_ErrorFlagBitsEndWithLinkOrCrc :
    (∃ s : State, s.seq.sp = .pollFlags ∧ s.seq.s &&& s.cfg.regs.statErr ≠ 0 ∧ s.envIn = .ok [1] :: []) ∧
    (∃ s : State, s.seq.sp = .pollFlags ∧ s.seq.s &&& s.cfg.regs.statErr = 0 ∧ s.seq.s &&& s.cfg.regs.statIrq ≠ 0 ∧
      s.envIn = .ok [0x20] :: []) ∧
    (∃ s : State, s.seq.sp = .testError ∧ s.seq.e &&& 0x07 ≠ 0 ∧
      0x07 = s.cfg.regs.errColl ||| s.cfg.regs.errParity ||| s.cfg.regs.errFraming) ∧
    (∃ s : State, s.seq.sp = .testError ∧ s.seq.e &&& 0x07 = 0 ∧ s.ctrl.crcAbort = true ∧
      s.seq.e &&& s.cfg.regs.errCrc ≠ 0 ∧
      0x07 = s.cfg.regs.errColl ||| s.cfg.regs.errParity ||| s.cfg.regs.errFraming) ∧
    (∃ s : State, s.seq.sp = .testError ∧ s.seq.e &&& 0x07 = 0 ∧
      (s.ctrl.crcAbort = false ∨ s.seq.e &&& s.cfg.regs.errCrc = 0) ∧ s.envIn = .ok [0] :: [] ∧
      s.seq.s &&& s.cfg.regs.statIrq ≠ 0 ∧
      0x07 = s.cfg.regs.errColl ||| s.cfg.regs.errParity ||| s.cfg.regs.errFraming) ∧
    ∀ limit ∈ ([none, some 2, some 1] : List (Option Nat)), ∃ s : State, s.cfg.pollLimit = limit ∧ s.seq.polls = 0 ∧
      s.seq.sp = .testError ∧ s.seq.e &&& 0x07 = 0 ∧
      (s.ctrl.crcAbort = false ∨ s.seq.e &&& s.cfg.regs.errCrc = 0) ∧ s.seq.s &&& s.cfg.regs.statIrq = 0 ∧
      0x07 = s.cfg.regs.errColl ||| s.cfg.regs.errParity ||| s.cfg.regs.errFraming :=
  ⟨⟨polling .pollFlags 0x04 0 0 [.ok [1]], rfl, by decide, rfl⟩,
    ⟨polling .pollFlags 0x08 0 0 [.ok [0x20]], rfl, by decide, by decide, rfl⟩,
    ⟨polling .testError 0x04 0x04 0 [], rfl, by decide, by decide⟩,
    ⟨{ polling .testError 0x04 0x08 0 [] with ctrl := ⟨true, false, false⟩ }, rfl, by decide, rfl, by decide, by decide⟩,
    ⟨polling .testError 0x0C 0x08 0 [.ok [0]], rfl, by decide, by decide, rfl, by decide, by decide⟩,
    fun limit _ => ⟨limited limit (polling .testError 0x04 0x08 0 []), rfl, rfl, rfl, (by decide : (0x08 : Byte) &&& 0x07 = 0),
      .inl rfl, (by decide : (0x04 : Byte) &&& 0x08 = 0), (by decide : (0x07 : Byte) = 0x01 ||| 0x02 ||| 0x04)⟩⟩

theorem witness_TimerFlagWithoutReceiveFlagIsTimeout :
    (∃ s : State, s.seq.sp = .testIrq ∧ s.seq.q &&& s.cfg.regs.irqTimer ≠ 0 ∧ s.seq.q &&& s.cfg.regs.irqRx = 0 ∧
      s.envIn = .ok [] :: []) ∧
    (∃ s : State, s.seq.sp = .testIrq ∧ s.seq.q &&& s.cfg.regs.irqTimer ≠ 0 ∧ s.seq.q &&& s.cfg.regs.irqRx = 0 ∧
      s.envIn = .fail :: []) ∧
    ∀ q ∈ ([0x28, 0x08] : List Byte), ∀ limit ∈ ([none, some 2, some 1] : List (Option Nat)), ∃ s : State,
      s.cfg.pollLimit = limit ∧ s.seq.polls = 0 ∧ s.seq.sp = .testIrq ∧
      (s.seq.q &&& s.cfg.regs.irqTimer = 0 ∨ s.seq.q &&& s.cfg.regs.irqRx ≠ 0) :=
  ⟨⟨polling .testIrq 0x08 0 0x20 [.ok []], rfl, by decide, by decide, rfl⟩,
    ⟨polling .testIrq 0x08 0 0x20 [.fail], rfl, by decide, by decide, rfl⟩,
    fun q hq limit _ => ⟨limited limit (polling .testIrq 0x08 0 q []), rfl, rfl, rfl,
      (by revert q; decide : q &&& 0x20 = 0 ∨ q &&& 0x08 ≠ 0)⟩⟩

/-- No limit, a limit of 2 before its last iteration, and a limit of 1 at its only one. -/
theorem witness_IterationWithoutEventYieldsOrHitsTheLimit :
    (∃ s : State, s.seq.sp = .pollFlags ∧ s.seq.s &&& s.cfg.regs.statErr = 0 ∧ s.seq.s &&& s.cfg.regs.statIrq = 0 ∧
      s.cfg.pollLimit = none) ∧
    (∃ s : State, s.seq.sp = .pollFlags ∧ s.seq.s &&& s.cfg.regs.statErr = 0 ∧ s.seq.s &&& s.cfg.regs.statIrq = 0 ∧
      s.cfg.pollLimit = some 2 ∧ s.seq.polls + 1 < 2) ∧
    ∃ s : State, s.seq.sp = .pollFlags ∧ s.seq.s &&& s.cfg.regs.statErr = 0 ∧ s.seq.s &&& s.cfg.regs.statIrq = 0 ∧
      s.cfg.pollLimit = some 1 ∧ 1 ≤ s.seq.polls + 1 :=
  ⟨⟨polling .pollFlags 0 0 0 [], rfl, by decide, by decide, rfl⟩,
    ⟨limited (some 2) (polling .pollFlags 0 0 0 []), rfl, by decide, by decide, rfl, by decide⟩,
    ⟨limited (some 1) (polling .pollFlags 0 0 0 []), rfl, by decide, by decide, rfl, by decide⟩⟩

/-- TRANSCEIVE at `sp` of its drain, with a capacity of 2 and the FIFO_LENGTH value given. -/
def draining (sp : Sp) (avail : Byte) (answers : List Answer) : State :=
  { running 0x06 sp 1 2 500 answers with
    seq := { Seq.idle with larg0 := 1, larg1 := 2, sp := sp, avail := avail, n := 2 } }

theorem witness_DrainReadsAtMostTheCapacity :
    (∃ s : State, s.seq.sp = .drainLength ∧ s.envIn = .ok [3] :: []) ∧
    (∃ s : State, s.seq.sp = .drainRead ∧ s.seq.avail = 0) ∧
    ∃ s : State, s.seq.sp = .drainRead ∧ s.seq.avail ≠ 0 ∧
      2 = min s.seq.avail.toNat (s.seq.larg1.extractLsb' 0 16).toNat ∧ ([0x04, 0x00] : List Byte).length = 2 ∧
      s.envIn = .ok [0x04, 0x00] :: [] :=
  ⟨⟨draining .drainLength 0 [.ok [3]], rfl, rfl⟩, ⟨draining .drainRead 0 [], rfl, rfl⟩,
    ⟨draining .drainRead 3 [.ok [0x04, 0x00]], rfl, by decide, by decide, rfl, rfl⟩⟩

/-- An answer that just fits, one cut with no flush asked for, one cut with the flush, and the end after the flush. -/
theorem witness_SuccessfulExchangeReportsLengthAndTruncation :
    (∃ s : State, false = decide ((s.seq.larg1.extractLsb' 0 16).toNat < s.seq.avail.toNat) ∧
      s.seq.sp = .drainFlush) ∧
    (∃ s : State, true = decide ((s.seq.larg1.extractLsb' 0 16).toNat < s.seq.avail.toNat) ∧
      s.seq.sp = .drainFlush ∧ s.ctrl.surplusFlush = false) ∧
    (∃ s : State, true = decide ((s.seq.larg1.extractLsb' 0 16).toNat < s.seq.avail.toNat) ∧
      s.seq.sp = .drainFlush ∧ s.ctrl.surplusFlush = true ∧ s.status.busy = true ∧
      some 0x01 = setValue 0x00 s.cfg.regs.flushFifo ∧ s.envIn = updateAnswers 0x00 (some 0x01) ++ []) ∧
    ∃ s : State, true = decide ((s.seq.larg1.extractLsb' 0 16).toNat < s.seq.avail.toNat) ∧ s.seq.sp = .finish :=
  ⟨⟨draining .drainFlush 2 [], by decide, rfl⟩, ⟨draining .drainFlush 3 [], by decide, rfl, rfl⟩,
    ⟨{ draining .drainFlush 3 [.ok [0x00], .ok []] with ctrl := ⟨false, true, false⟩ },
      by decide, rfl, rfl, rfl, by decide, rfl⟩,
    ⟨draining .finish 3 [], by decide, rfl⟩⟩

theorem witness_TransceiveEndsInSuccessOrError :
    (∀ sp ∈ [Sp.drainFlush, .finish], ∃ s t : State, s.seq.sp = sp ∧ s.status.busy = true ∧
      exec (.transceive 1 0) s = .next t ∧ t.status.busy = false ∧ t.status.err = false) ∧
    ∃ s t : State, s.status.busy = true ∧ exec (.transceive 1 0) s = .next t ∧ t.status.busy = false ∧
      t.status.err = true :=
  ⟨fun sp h => ⟨draining sp 2 [], _, rfl, rfl, rfl, by revert sp; decide, by revert sp; decide⟩, ⟨running 0x106 .timedOut 1 2 500 [], _, rfl, rfl, rfl, rfl⟩⟩

/-- Two poll iterations with no event, and an answer longer than the capacity. -/
theorem witness_TransceiveExchangeSucceedsAfterAnyNumberOfPolls :
    ∃ s : State, AtFirstStep s ∧ s.cfg.pollLimit = none ∧ s.ctrl.surplusFlush = false ∧
      3 = (s.seq.larg0.extractLsb' 0 16).toNat ∧ 3 ≤ s.cfg.txMax ∧
      deriveTimer (10 * s.seq.larg2.toNat) = some (12, 166) ∧
      (∀ it ∈ ([(0x1E, 0x00), (0x1E, 0x03)] : List (Byte × Byte)),
        it.1 ≠ 0 ∧ it.2 &&& s.cfg.regs.statErr = 0 ∧ it.2 &&& s.cfg.regs.statIrq = 0) ∧
      (5 : Byte) ≠ 0 ∧ 2 = min (5 : Byte).toNat (s.seq.larg1.extractLsb' 0 16).toNat ∧
      ([0xAA, 0xBB] : List Byte).length = 2 ∧
      s.envIn = List.replicate 9 (.ok []) ++
        (([(0x1E, 0x00), (0x1E, 0x03)] : List (Byte × Byte)).flatMap fun it => [.ok [it.1], .ok [it.2]]) ++
        [.ok [0], .ok [], .ok [5], .ok [0xAA, 0xBB]] ++ [] :=
  ⟨running 0x06 (.op 0) 3 2 5000
      (List.replicate 9 (.ok []) ++ [.ok [0x1E], .ok [0x00], .ok [0x1E], .ok [0x03]] ++
        [.ok [0], .ok [], .ok [5], .ok [0xAA, 0xBB]]),
    ⟨rfl, rfl⟩, rfl, rfl, by decide, by decide, by decide,
    by
      intro it h
      simp only [List.mem_cons, List.not_mem_nil, or_false] at h
      obtain rfl | rfl := h <;> decide,
    by decide, by decide, rfl, rfl⟩

/-- The ends of the reserved ranges and of the buffers; RXBUF while idle, and while TRANSCEIVE polls. -/
theorem witness_BufferReadsReturnTheStoredBytes :
    (∀ o ∈ ([0x01C, 0x0FF, 0x300, 0xFFF] : List (BitVec 12)),
      (0x01C ≤ o.toNat ∧ (o.toNat < 0x100 ∨ 0x300 ≤ o.toNat) ∧ o.toNat % AccessSize.one.bytes = 0) ∧
        ∃ s : State, s.hostIn = .read o .one :: []) ∧
    (∀ o ∈ ([0x100, 0x1FC, 0x200, 0x2FC] : List (BitVec 12)),
      (0x100 ≤ o.toNat ∧ o.toNat < 0x300 ∧ o.toNat % AccessSize.four.bytes = 0) ∧
        ∃ s : State, s.hostIn = .read o .four :: [] ∧ s.status.busy = false) ∧
    ∃ s : State, s.hostIn = .read 0x200 .two :: [] ∧ s.status.busy = true ∧
      s.seq.sp ≠ .drainFlush ∧ s.seq.sp ≠ .flushWrite ∧ s.seq.sp ≠ .finish :=
  ⟨fun o ho => ⟨by revert o; decide, hostState (.read o .one), rfl⟩,
    fun o ho => ⟨by revert o; decide, hostState (.read o .four), rfl, rfl⟩,
    ⟨{ polling .pollCommand 0 0 0 [] with hostIn := [.read 0x200 .two] }, rfl, rfl, by decide, by decide, by decide⟩⟩

end Sys2Proof.Tests
end

section
/-! Proofs about one step of the machine: every command answers, `step` against `exec`, what a step does at the port,
how PHASE moves. -/

namespace Sys2Proof.Machine

open Sys2Proof.Safety

/-! ## `step` and `exec` -/

theorem seqStep_of_decode {s : State} {i : Instr} (hb : s.status.busy = true) (hd : decode s.seq.lcmd = .ok i) :
    seqStep s = exec i s := by
  simp [seqStep, hb, hd]

theorem seqStep_of_illegal {s : State} {e : DecodeError} (hb : s.status.busy = true)
    (hd : decode s.seq.lcmd = .error e) : seqStep s = .next (raiseIllegal s) := by
  simp [seqStep, hb, hd]

theorem seqStep_of_idle {s : State} (hb : s.status.busy = false) : seqStep s = .next s := by
  simp [seqStep, hb]

/-- Settles O20: each of the 17 arms of `exec` is a `.next`. -/
theorem everyCommandStepAnswers : Obligations.EveryCommandStepAnswers := by
  intro i s
  cases i <;> exact ⟨_, rfl⟩

/-- Settles O6: with no host access due a step is `seqStep`, and that runs the command LCMD decodes to. -/
theorem stepRunsTheDecodedCommand : Obligations.StepRunsTheDecodedCommand := by
  intro s i hb hd
  refine ⟨fun hnil => ?_, fun rest hquiet => ?_⟩
  · have hstep : step s = seqStep s := by simp only [step, hnil]
    rw [hstep, seqStep_of_decode hb hd]
  · have hstep : step s = seqStep { s with hostIn := rest } := by simp only [step, hquiet]
    rw [hstep]
    exact seqStep_of_decode hb hd

/-! ## The commands as two families -/

/-- A step of a command is one of the cases of `ListingOutcome`, or in TRANSCEIVE one of `TransceiveOutcome`. -/
theorem exec_outcome {i : Instr} {s t : State} (h : exec i s = .next t) :
    ((∀ slot x, i ≠ .transceive slot x) ∧ ListingOutcome i.slot s t) ∨
    ((∃ slot x, i = .transceive slot x) ∧ TransceiveOutcome i.slot s t) := by
  by_cases hi : ∃ slot x, i = .transceive slot x
  · obtain ⟨slot, x, rfl⟩ := hi
    cases h
    exact .inr ⟨⟨slot, x, rfl⟩, transceiveStep_outcome slot s⟩
  · push Not at hi
    exact .inl ⟨hi, exec_listing_outcome i s t hi h⟩

/-! ## What a step does at the port -/

/-- From `s` to `t` the port saw nothing, one wait, or one transaction that carries `slot` and used up one answer. -/
def AtMostOnePortEvent (slot : Byte) (s t : State) : Prop :=
  (t.trace = s.trace ∧ t.txns = s.txns ∧ t.envIn = s.envIn) ∨
  (∃ ev, t.trace = ev :: s.trace ∧ eventSlot ev = none ∧ t.txns = s.txns ∧ t.envIn = s.envIn) ∨
  (∃ ev, t.trace = ev :: s.trace ∧ eventSlot ev = some slot ∧ t.txns = s.txns + 1 ∧ t.envIn = s.envIn.tail)

theorem ListingOutcome.atMostOnePortEvent {slot : Byte} {s t : State} (h : ListingOutcome slot s t) :
    AtMostOnePortEvent slot s t := by
  cases h with
  | ended r => exact .inl ⟨rfl, rfl, rfl⟩
  | raised c r hc => exact .inl ⟨rfl, rfl, rfl⟩
  | held us j q hsp hq => exact .inr (.inl ⟨.hold us, rfl, rfl, rfl, rfl⟩)
  | failed ev r hev hf => exact .inr (.inr ⟨ev, rfl, hev, rfl, rfl⟩)
  | went ev j q hev hf hsp hq => exact .inr (.inr ⟨ev, rfl, hev, rfl, rfl⟩)

theorem TransceiveOutcome.atMostOnePortEvent {slot : Byte} {s t : State} (h : TransceiveOutcome slot s t) :
    AtMostOnePortEvent slot s t := by
  cases h with
  | storedAndSucceeded hs => exact .inl ⟨rfl, rfl, rfl⟩
  | succeeded hs hsp => exact .inl ⟨rfl, rfl, rfl⟩
  | raised c hc hi => exact .inl ⟨rfl, rfl, rfl⟩
  | yielded us q hs hsp hq => exact .inr (.inl ⟨.yield us, rfl, rfl, rfl, rfl⟩)
  | failed ev hev hf => exact .inr (.inr ⟨ev, rfl, hev, rfl, rfl⟩)
  | storedAndFailed ev hev hf => exact .inr (.inr ⟨ev, rfl, hev, rfl, rfl⟩)
  | went ev q hev hf hsp hd hq => exact .inr (.inr ⟨ev, rfl, hev, rfl, rfl⟩)
  | entered ev q hev hf hp hq => exact .inr (.inr ⟨ev, rfl, hev, rfl, rfl⟩)
  | stored ev q hev hf hs hsp hq => exact .inr (.inr ⟨ev, rfl, hev, rfl, rfl⟩)

/-- Settles O25, by the case lists of `ListingOutcome` and `TransceiveOutcome`. -/
theorem oneTransactionAStepWithTheCommandsSlot : Obligations.OneTransactionAStepWithTheCommandsSlot := by
  intro i s t h
  obtain ⟨_, hl⟩ | ⟨_, ht⟩ := exec_outcome h
  · exact hl.atMostOnePortEvent
  · exact ht.atMostOnePortEvent

/-! ## PHASE along the exchange -/

/-- Settles O50: a step that goes on keeps PHASE or enters the state of the exchange its `TransceiveOutcome` names, and
a step that ends shows SUCCESS after DRAIN, or ERROR. -/
theorem phaseFollowsTheStatesOfTheExchange : Obligations.PhaseFollowsTheStatesOfTheExchange := by
  intro slot x s t hph h
  cases h
  generalize ht : transceiveStep slot s = t
  have hout : TransceiveOutcome slot s t := ht ▸ transceiveStep_outcome slot s
  cases hout with
  | storedAndSucceeded hs => right; right; simp [hph, hs, phaseAt]
  | succeeded hs hsp => right; right; simp [hph, hs]
  | raised c hc hi => exact .inr (.inl rfl)
  | failed ev hev hf => exact .inr (.inl rfl)
  | storedAndFailed ev hev hf => exact .inr (.inl rfl)
  | yielded us q hs hsp hq => exact .inl rfl
  | went ev q hev hf hsp hd hq => exact .inl rfl
  | stored ev q hev hf hs hsp hq => exact .inl rfl
  | entered ev q hev hf hp hq =>
    right; right
    obtain ⟨hs, hq'⟩ | ⟨hs, hq'⟩ | ⟨hs, hq'⟩ := hp
    · simp [hph, hs, hq']
    · simp [hph, hs, hq']
    · have hawait : phaseAt s.seq.sp = .await := by rw [hs]; rfl
      simp [hph, hawait, hq']

end Sys2Proof.Machine
end

section
/-! The invariant of the machine: its two forms, while a command runs and while SEQ is idle, and that every move of SEQ
and of HOST keeps it. -/

namespace Sys2Proof.Machine

open Sys2Proof.Safety

/-! ## The buffers -/

/-- The cells are in canonical form and inside the buffers. -/
def Memory.Canonical (m : Memory) : Prop :=
  m.wf = true ∧ m.inBuffers = true

theorem Memory.canonical_nil : Memory.Canonical [] := ⟨rfl, rfl⟩

theorem Memory.Canonical.dropRx {m : Memory} (h : m.Canonical) : m.dropRx.Canonical :=
  ⟨Memory.wf_dropRx m h.1, Memory.inBuffers_dropRx m h.2⟩

theorem Memory.Canonical.storeRx {s : State} (h : s.mem.Canonical) (bytes : List Byte) :
    (storeRx bytes s).mem.Canonical :=
  ⟨storeRx_wf bytes s h.1, storeRx_inBuffers bytes s h.2⟩

theorem hostRegion_eq_txbuf {offset : BitVec 12} (h : hostRegion offset = .txbuf) : inTxBuf offset.toNat = true := by
  unfold hostRegion at h
  simp only at h
  split at h
  · cases h
  · split at h
    next hin => exact hin
    · split at h <;> cases h

/-- An aligned write that starts in TXBUF stays in it. -/
theorem inTxBuf_of_aligned {a i : Nat} {size : AccessSize} (ha : inTxBuf a = true) (hal : a % size.bytes = 0)
    (hi : i < size.bytes) : inTxBuf (a + i) = true := by
  rw [inTxBuf_iff] at ha ⊢
  cases size <;> simp only [AccessSize.bytes] at hal hi <;> omega

theorem Memory.Canonical.hostWrite {m : Memory} (h : m.Canonical) {a : Nat} {size : AccessSize}
    (ha : inTxBuf a = true) (hal : a % size.bytes = 0) (data : Word) :
    (m.writeBytes a (leBytes data size.bytes)).Canonical := by
  refine ⟨Memory.wf_writeBytes _ _ _ h.1, Memory.inBuffers_writeBytes _ _ _ (fun i hi => .inl ?_) h.2⟩
  rw [leBytes_length] at hi
  exact inTxBuf_of_aligned ha hal hi

/-! ## The two forms of the invariant -/

/-- `runningOk` by its clauses. -/
theorem runningOk_iff {s : State} : runningOk s = true ↔
    s.status.done = false ∧ s.status.err = false ∧ s.status.trunc = false ∧ s.status.ecode = .none ∧
      s.seq.lcmd = s.cmd ∧ spFits s.seq = true ∧ s.status.phase = phaseAt s.seq.sp := by
  simp [runningOk, and_assoc]

/-- STATUS while SEQ is idle: ERR comes with an error code, TRUNC with SUCCESS, and no exchange shows. -/
def Status.AtRest (st : Status) : Prop :=
  (st.err = true → st.ecode ≠ .none) ∧ (st.trunc = true → st.phase = .success) ∧
    (st.phase = .idle ∨ st.phase = .success ∨ st.phase = .error)

/-- While a command runs the clauses of ERR and TRUNC follow from the flags being clear. -/
theorem blockInv_busy_iff {s : State} (hb : s.status.busy = true) :
    BlockInv s = true ↔ s.cfg.wf = true ∧ s.mem.Canonical ∧ runningOk s = true := by
  simp only [BlockInv, hb, if_true, Bool.and_eq_true, Memory.Canonical]
  constructor
  · rintro ⟨⟨⟨⟨⟨hcfg, hwf⟩, hin⟩, _⟩, _⟩, hrun⟩
    exact ⟨hcfg, ⟨hwf, hin⟩, hrun⟩
  · rintro ⟨hcfg, ⟨hwf, hin⟩, hrun⟩
    obtain ⟨_, herr, htrunc, _⟩ := runningOk_iff.1 hrun
    exact ⟨⟨⟨⟨⟨hcfg, hwf⟩, hin⟩, by simp [herr]⟩, by simp [htrunc]⟩, hrun⟩

theorem blockInv_idle_iff {s : State} (hb : s.status.busy = false) :
    BlockInv s = true ↔ s.cfg.wf = true ∧ s.mem.Canonical ∧ s.status.AtRest := by
  have himp (b : Bool) (p : Prop) : (b = false ∨ p) ↔ (b = true → p) := by cases b <;> simp
  simp only [BlockInv, hb, idleOk, Memory.Canonical, Status.AtRest, Bool.and_eq_true, Bool.or_eq_true,
    Bool.not_eq_true', bne_iff_ne, beq_iff_eq, Bool.false_eq_true, if_false, himp, and_assoc, or_assoc]

theorem cfg_wf_of_blockInv {s : State} (h : BlockInv s = true) : s.cfg.wf = true := by
  cases hb : s.status.busy
  · exact ((blockInv_idle_iff hb).1 h).1
  · exact ((blockInv_busy_iff hb).1 h).1

theorem canonical_of_blockInv {s : State} (h : BlockInv s = true) : s.mem.Canonical := by
  cases hb : s.status.busy
  · exact ((blockInv_idle_iff hb).1 h).2.1
  · exact ((blockInv_busy_iff hb).1 h).2.1

theorem runningOk_of_blockInv {s : State} (h : BlockInv s = true) (hb : s.status.busy = true) : runningOk s = true :=
  ((blockInv_busy_iff hb).1 h).2.2

/-! ## Which steps fit the command -/

theorem spFits_of_op {q : Seq} {j : Nat} (h : q.sp = .op j) : spFits q = true := by
  simp [spFits, h]

theorem spFits_of_transceive {q : Seq} {slot x : Byte} (h : decode q.lcmd = .ok (.transceive slot x)) :
    spFits q = true := by
  unfold spFits
  rw [h]
  split
  · rfl
  · rfl
  next hne => exact absurd rfl (hne _ _)

/-- Only TRANSCEIVE has steps that show another PHASE than IDLE. -/
theorem phaseAt_eq_idle_of_spFits {q : Seq} (hf : spFits q = true)
    (hd : ∀ slot x, decode q.lcmd ≠ .ok (.transceive slot x)) : phaseAt q.sp = .idle := by
  unfold spFits at hf
  split at hf
  next hsp => rw [hsp]; rfl
  next hdec _ => exact absurd hdec (hd _ _)
  · cases hf

/-- A command other than TRANSCEIVE shows PHASE IDLE while it runs. -/
theorem phase_eq_idle_of_running {s : State} (hr : runningOk s = true)
    (hd : ∀ slot x, decode s.seq.lcmd ≠ .ok (.transceive slot x)) : s.status.phase = .idle := by
  obtain ⟨_, _, _, _, _, hfits, hphase⟩ := runningOk_iff.1 hr
  rw [hphase]
  exact phaseAt_eq_idle_of_spFits hfits hd

/-! ## The moves of SEQ -/

/-- A step after which the command goes on keeps the invariant where the next step fits it and shows its PHASE. -/
theorem blockInv_of_goes_on {s t : State} (hi : BlockInv s = true) (hb : s.status.busy = true)
    (hcfg : t.cfg = s.cfg) (hmem : t.mem.Canonical) (hcmd : t.cmd = s.cmd) (hl : t.seq.lcmd = s.seq.lcmd)
    (hf : spFits t.seq = true) (hst : t.status = { s.status with phase := phaseAt t.seq.sp }) :
    BlockInv t = true := by
  obtain ⟨hdone, herr, htrunc, hecode, hlcmd, _, _⟩ := runningOk_iff.1 (runningOk_of_blockInv hi hb)
  refine (blockInv_busy_iff (by rw [hst]; exact hb)).2 ⟨hcfg ▸ cfg_wf_of_blockInv hi, hmem, runningOk_iff.2 ?_⟩
  rw [hst]
  exact ⟨hdone, herr, htrunc, hecode, by rw [hl, hcmd, hlcmd], hf, rfl⟩

/-- The same where PHASE stays. -/
theorem blockInv_of_stays {s t : State} (hi : BlockInv s = true) (hb : s.status.busy = true)
    (hcfg : t.cfg = s.cfg) (hmem : t.mem.Canonical) (hcmd : t.cmd = s.cmd) (hl : t.seq.lcmd = s.seq.lcmd)
    (hf : spFits t.seq = true) (hst : t.status = s.status) (hsp : phaseAt t.seq.sp = phaseAt s.seq.sp) :
    BlockInv t = true := by
  obtain ⟨_, _, _, _, _, _, hphase⟩ := runningOk_iff.1 (runningOk_of_blockInv hi hb)
  exact blockInv_of_goes_on hi hb hcfg hmem hcmd hl hf (by rw [hst, hsp, ← hphase])

theorem blockInv_complete {s : State} (hi : BlockInv s = true) (hb : s.status.busy = true)
    (hp : s.status.phase = .idle) (r : Word) : BlockInv (complete r s) = true := by
  obtain ⟨_, herr, htrunc, _⟩ := runningOk_iff.1 (runningOk_of_blockInv hi hb)
  refine (blockInv_idle_iff rfl).2 ⟨cfg_wf_of_blockInv (s := s) hi, canonical_of_blockInv (s := s) hi, ?_⟩
  simp [Status.AtRest, herr, htrunc, hp]

theorem blockInv_raiseError {s : State} (hi : BlockInv s = true) (hp : s.status.phase = .idle) {c : ErrCode}
    (hc : c ≠ .none) (r : Word) : BlockInv (raiseError c r s) = true := by
  refine (blockInv_idle_iff rfl).2 ⟨cfg_wf_of_blockInv (s := s) hi, canonical_of_blockInv (s := s) hi, ?_⟩
  simp [Status.AtRest, hc, hp]

theorem blockInv_raiseTransceive {s : State} (hcfg : s.cfg.wf = true) (hm : s.mem.Canonical) {c : ErrCode}
    (hc : c ≠ .none) : BlockInv (raiseTransceive c s) = true := by
  refine (blockInv_idle_iff rfl).2 ⟨hcfg, hm.dropRx, ?_⟩
  simp [Status.AtRest, hc]

theorem blockInv_succeed {s : State} (hcfg : s.cfg.wf = true) (hm : s.mem.Canonical)
    (herr : s.status.err = false) : BlockInv (succeed s) = true := by
  refine (blockInv_idle_iff rfl).2 ⟨hcfg, hm, ?_⟩
  simp [Status.AtRest, herr]

/-- A step of a command other than TRANSCEIVE keeps the invariant: its PHASE is IDLE all along. -/
theorem ListingOutcome.keeps_blockInv {slot : Byte} {s t : State} (h : ListingOutcome slot s t)
    (hi : BlockInv s = true) (hb : s.status.busy = true)
    (hd : ∀ slot x, decode s.seq.lcmd ≠ .ok (.transceive slot x)) : BlockInv t = true := by
  have hr := runningOk_of_blockInv hi hb
  have hp := phase_eq_idle_of_running hr hd
  obtain ⟨_, _, _, _, _, hfits, _⟩ := runningOk_iff.1 hr
  have hidle : phaseAt s.seq.sp = .idle := phaseAt_eq_idle_of_spFits hfits hd
  have hm := canonical_of_blockInv hi
  cases h with
  | ended r => exact blockInv_complete hi hb hp r
  | raised c r hc => exact blockInv_raiseError hi hp hc r
  | failed ev r hev hf => exact blockInv_raiseError (s := answered ev s) hi hp (by decide) r
  | held us j q hsp hq =>
    exact blockInv_of_stays hi hb rfl hm rfl hq.1 (spFits_of_op hsp) rfl (by rw [hsp, hidle]; rfl)
  | went ev j q hev hf hsp hq =>
    exact blockInv_of_stays hi hb rfl hm rfl hq.1 (spFits_of_op hsp) rfl (by rw [hsp, hidle]; rfl)

/-- A step of TRANSCEIVE keeps the invariant: every one of its steps fits the command. -/
theorem TransceiveOutcome.keeps_blockInv {slot : Byte} {s t : State} (h : TransceiveOutcome slot s t)
    (hi : BlockInv s = true) (hb : s.status.busy = true) {slot' x : Byte}
    (hd : decode s.seq.lcmd = .ok (.transceive slot' x)) : BlockInv t = true := by
  obtain ⟨_, herr, _⟩ := runningOk_iff.1 (runningOk_of_blockInv hi hb)
  have hcfg := cfg_wf_of_blockInv hi
  have hm := canonical_of_blockInv hi
  have hfits {q : Seq} (hq : SameLatch s.seq q) : spFits q = true :=
    spFits_of_transceive (q := q) (by rw [hq.1]; exact hd)
  cases h with
  | storedAndSucceeded hs => exact blockInv_succeed hcfg (hm.storeRx s.seq.bytes) herr
  | succeeded hs hsp => exact blockInv_succeed hcfg hm herr
  | raised c hc hi => exact blockInv_raiseTransceive hcfg hm hc
  | failed ev hev hf => exact blockInv_raiseTransceive (s := answered ev s) hcfg hm (by decide)
  | storedAndFailed ev hev hf =>
    exact blockInv_raiseTransceive (s := answered ev (storeRx s.seq.bytes s)) hcfg (hm.storeRx s.seq.bytes) (by decide)
  | yielded us q hs hsp hq =>
    exact blockInv_of_stays hi hb rfl hm rfl hq.1 (hfits hq) rfl (by rw [hsp, hs]; rfl)
  | went ev q hev hf hsp hd hq => exact blockInv_of_stays hi hb rfl hm rfl hq.1 (hfits hq) rfl hsp
  | entered ev q hev hf hp hq => exact blockInv_of_goes_on hi hb rfl hm rfl hq.1 (hfits hq) rfl
  | stored ev q hev hf hs hsp hq =>
    exact blockInv_of_stays hi hb rfl (hm.storeRx s.seq.bytes) rfl hq.1 (hfits hq) rfl (by rw [hsp, hs]; rfl)

/-- A step of SEQ keeps the invariant: it waits, ends an illegal command, or runs the command in LCMD. -/
theorem seqStep_keeps_blockInv {s t : State} (hi : BlockInv s = true) (h : seqStep s = .next t) :
    BlockInv t = true := by
  cases hb : s.status.busy with
  | false =>
    rw [seqStep_of_idle hb] at h
    cases h
    exact hi
  | true =>
    cases hd : decode s.seq.lcmd with
    | error e =>
      rw [seqStep_of_illegal hb hd] at h
      cases h
      have hp := phase_eq_idle_of_running (runningOk_of_blockInv hi hb) (fun _ _ hok => by rw [hd] at hok; cases hok)
      exact blockInv_raiseError hi hp (by decide) 0
    | ok i =>
      rw [seqStep_of_decode hb hd] at h
      obtain ⟨hne, hout⟩ | ⟨⟨slot, x, rfl⟩, hout⟩ := exec_outcome h
      · refine hout.keeps_blockInv hi hb fun slot x hok => hne slot x ?_
        rw [hd] at hok
        exact Except.ok.inj hok
      · exact hout.keeps_blockInv hi hb hd

/-! ## The moves of HOST -/

/-- Acceptance shows a running command at its first step, whatever STATUS was. -/
theorem accept_keeps_blockInv {s : State} (hi : BlockInv s = true) (w : Word) : BlockInv (accept w s) = true :=
  (blockInv_busy_iff rfl).2 ⟨cfg_wf_of_blockInv (s := s) hi, canonical_of_blockInv (s := s) hi,
    runningOk_iff.2 ⟨rfl, rfl, rfl, rfl, rfl, rfl, rfl⟩⟩

theorem issue_keeps_blockInv {s : State} (hi : BlockInv s = true) (w : Word) : BlockInv (issue w s) = true := by
  unfold issue
  split
  · exact hi
  · exact accept_keeps_blockInv hi w

/-- Clearing flags by a STATUS write keeps the invariant: a flag clear while a command runs stays clear. -/
theorem acknowledge_keeps_blockInv {s : State} (hi : BlockInv s = true) (w : Word) :
    BlockInv { s with status := s.status.acknowledge w } = true := by
  have hcfg := cfg_wf_of_blockInv hi
  have hm := canonical_of_blockInv hi
  cases hb : s.status.busy with
  | false =>
    obtain ⟨_, _, herr, htrunc, hphase⟩ := (blockInv_idle_iff hb).1 hi
    refine (blockInv_idle_iff (s := { s with status := s.status.acknowledge w }) hb).2
      ⟨hcfg, hm, ?_, htrunc, hphase⟩
    intro h
    simp only [Status.acknowledge_err, Bool.and_eq_true] at h
    exact herr h.1
  | true =>
    obtain ⟨hdone, herr, hrest⟩ := runningOk_iff.1 (runningOk_of_blockInv hi hb)
    refine (blockInv_busy_iff (s := { s with status := s.status.acknowledge w }) hb).2
      ⟨hcfg, hm, runningOk_iff.2 ?_⟩
    exact ⟨by simp [hdone], by simp [herr], hrest⟩

theorem writeRegister_keeps_blockInv {s : State} (hi : BlockInv s = true) (offset : BitVec 12) (w : Word) :
    BlockInv (writeRegister offset w s) = true := by
  unfold writeRegister
  split
  · exact issue_keeps_blockInv hi w
  · exact acknowledge_keeps_blockInv hi w
  all_goals exact hi

theorem hostRead_keeps_blockInv {s t : State} {offset : BitVec 12} {size : AccessSize} (hi : BlockInv s = true)
    (h : hostRead offset size s = .next t) : BlockInv t = true := by
  unfold hostRead at h
  split at h
  · cases h
    exact hi
  · cases h

theorem txbufWrite_keeps_blockInv {s : State} (hi : BlockInv s = true) (hb : s.status.busy = false) {a : Nat}
    {size : AccessSize} (ha : inTxBuf a = true) (hal : a % size.bytes = 0) (data : Word) :
    BlockInv { s with mem := s.mem.writeBytes a (leBytes data size.bytes) } = true := by
  obtain ⟨hcfg, hm, hrest⟩ := (blockInv_idle_iff hb).1 hi
  exact (blockInv_idle_iff (s := { s with mem := s.mem.writeBytes a (leBytes data size.bytes) }) hb).2
    ⟨hcfg, hm.hostWrite ha hal data, hrest⟩

theorem hostWrite_keeps_blockInv {s t : State} {offset : BitVec 12} {size : AccessSize} {data : Word}
    (hi : BlockInv s = true) (h : hostWrite offset size data s = .next t) : BlockInv t = true := by
  unfold hostWrite at h
  split at h
  next hok =>
    split at h
    · cases h
      exact writeRegister_keeps_blockInv hi offset data
    · cases h
      exact hi
    · cases h
      exact hi
    next hreg =>
      split at h
      · cases h
      next hb =>
        cases h
        simp only [accessAllowed, Bool.and_eq_true, decide_eq_true_eq] at hok
        exact txbufWrite_keeps_blockInv hi (by simpa using hb) (hostRegion_eq_txbuf hreg) hok.1 data
  · cases h

theorem blockReset_blockInv {s : State} (hcfg : s.cfg.wf = true) : BlockInv (blockReset s) = true :=
  (blockInv_idle_iff rfl).2 ⟨hcfg, Memory.canonical_nil, by simp [Status.AtRest, Status.reset]⟩

/-! ## The machine -/

/-- Settles O17, by who moves: SEQ (`seqStep_keeps_blockInv`), HOST's accesses, or block reset. -/
theorem everyStepKeepsTheInvariant : Obligations.EveryStepKeepsTheInvariant := by
  intro s t hi h
  have hrest (rest : List HostTurn) : BlockInv { s with hostIn := rest } = true := hi
  unfold step at h
  split at h
  · exact seqStep_keeps_blockInv hi h
  next rest _ => exact seqStep_keeps_blockInv (hrest rest) h
  next rest _ => exact hostRead_keeps_blockInv (hrest rest) h
  next rest _ => exact hostWrite_keeps_blockInv (hrest rest) h
  next rest _ =>
    cases h
    exact blockReset_blockInv (cfg_wf_of_blockInv hi)

/-- The default parameters are legal: the length of DEFAULTS_TABLE is in its range, whatever it is. -/
theorem paramsBlock_wf : Params.block.wf = true := by
  have hlen : Params.block.defaults.length ≤ 128 := by
    simp only [Params.block, List.length_map, List.length_range]
    exact Nat.le_of_lt_succ Config.defaultsLength.isLt
  have haddr : Params.block.regs.addresses.Nodup := by decide
  simp only [Params.wf, hlen, haddr, decide_true, Bool.true_and]
  rfl

/-- Settles O18: reset leaves an idle machine with legal parameters and empty buffers. -/
theorem resetStateMeetsTheInvariant : Obligations.ResetStateMeetsTheInvariant :=
  (blockInv_idle_iff rfl).2
    ⟨paramsBlock_wf, Memory.canonical_nil, by simp [Status.AtRest, State.reset, Status.reset]⟩

end Sys2Proof.Machine
end

section
/-! The steps of TRANSCEIVE whose transaction succeeds, and the parts of the exchange they make up: arming, streaming,
the drain and the end. -/

namespace Sys2Proof.Machine

open Sys2Proof.Safety

/-! ## A step that goes on -/

/-- The state after a step of TRANSCEIVE whose transaction succeeds: the port saw `ev`, one answer is used up, the
hidden state is `q` and PHASE is `ph`. -/
def advanced (ev : PortEvent) (q : Seq) (ph : Phase) (s : State) : State :=
  { answered ev s with seq := q, status := { s.status with phase := ph } }

@[simp] theorem advanced_trace (ev : PortEvent) (q : Seq) (ph : Phase) (s : State) :
    (advanced ev q ph s).trace = ev :: s.trace := rfl
@[simp] theorem advanced_envIn (ev : PortEvent) (q : Seq) (ph : Phase) (s : State) :
    (advanced ev q ph s).envIn = s.envIn.tail := rfl
@[simp] theorem advanced_seq (ev : PortEvent) (q : Seq) (ph : Phase) (s : State) : (advanced ev q ph s).seq = q := rfl

theorem advanced_keepsHostSide (ev : PortEvent) (q : Seq) (ph : Phase) (s : State) :
    KeepsHostSide s (advanced ev q ph s) :=
  ⟨rfl, rfl, rfl, rfl, rfl, rfl, rfl, rfl, rfl, fun _ _ => rfl⟩

theorem advanced_keepsMemory (ev : PortEvent) (q : Seq) (ph : Phase) (s : State) :
    KeepsMemory s (advanced ev q ph s) := fun _ => rfl

theorem keepsHostSide_refl (s : State) : KeepsHostSide s s :=
  ⟨rfl, rfl, rfl, rfl, rfl, rfl, rfl, rfl, rfl, fun _ _ => rfl⟩

theorem keepsHostSide_trans {s t u : State} (h : KeepsHostSide s t) (g : KeepsHostSide t u) : KeepsHostSide s u := by
  obtain ⟨hcfg, hcmd, hctrl, h0, h1, h2, hovr, hin, hout, hbyte⟩ := h
  obtain ⟨gcfg, gcmd, gctrl, g0, g1, g2, govr, gin, gout, gbyte⟩ := g
  exact ⟨gcfg.trans hcfg, gcmd.trans hcmd, gctrl.trans hctrl, g0.trans h0, g1.trans h1, g2.trans h2, govr.trans hovr,
    gin.trans hin, gout.trans hout, fun a ha => (gbyte a ha).trans (hbyte a ha)⟩

theorem keepsMemory_trans {s t u : State} (h : KeepsMemory s t) (g : KeepsMemory t u) : KeepsMemory s u :=
  fun a => (g a).trans (h a)

theorem keepsHostSide_goto_answered {s u : State} (h : KeepsHostSide s u) (ev : PortEvent) (sp : Sp) :
    KeepsHostSide s (goto sp (answered ev u)) := h

theorem keepsHostSide_holdV_answered {s u : State} (h : KeepsHostSide s u) (ev : PortEvent) (sp : Sp) (v : Byte) :
    KeepsHostSide s (holdV sp v (answered ev u)) := h

theorem holdsAnswer_congr {t u : State} {bytes : List Byte} (h : HoldsAnswer u bytes) (hm : t.mem = u.mem) :
    HoldsAnswer t bytes := by
  intro k hk
  rw [hm]
  exact h k hk

/-- A register read takes the first byte of the answer, a free one where the answer lists none. -/
theorem regRead_of_answer {slot a : Byte} {onFail : State → State} {onOk : Byte → State → State} {s : State}
    {b : List Byte} {rest : List Answer} (h : s.envIn = .ok b :: rest) :
    regRead slot a onFail onOk s =
      onOk (s.answerByte b 0) (answered (.regRead slot a (some (s.answerByte b 0))) s) := by
  simp [regRead, State.nextAnswer_cons h]

section Steps

variable {slot x : Byte} {s : State} {b : List Byte} {rest : List Answer}

/-! ## Streaming -/

theorem State.txBytes_eq (s : State) (off n : Nat) :
    s.txBytes off n = (List.range n).map fun k => s.bufByte (0x100 + (off + k)) := rfl

/-- The state after the first chunk's step. -/
def afterFirstChunk (slot : Byte) (s : State) : State :=
  advanced (.fifoWrite slot (s.txBytes 0 (min 64 (xferTxLen s.seq))) true)
    { s.seq with chunk := min 64 (xferTxLen s.seq), sp := .startExchange } .streaming s

/-- The state after the TRANSCEIVE command. -/
def afterStart (slot : Byte) (s : State) : State :=
  advanced (.regWrite slot s.cfg.regs.command s.cfg.regs.cmdTransceive true) { s.seq with sp := .streamEntry }
    s.status.phase s

theorem firstChunk_of_ok (h : s.envIn = .ok b :: rest) : firstChunk slot s = afterFirstChunk slot s := by
  unfold firstChunk
  exact fifoWrite_of_ok (b := b) (rest := rest) h

theorem startExchange_of_ok (h : s.envIn = .ok b :: rest) : startExchange slot s = afterStart slot s :=
  regWrite_of_ok h

/-- From `s`, with the hidden state `q`, to `t` the loop test of step 2 ran (42_transceive.md R175): with bytes left
FIFO_LENGTH was read as `w`, else step 3 began and COMMAND was read as `w`. -/
structure LoopTested (slot w : Byte) (q : Seq) (s t : State) : Prop where
  txOff : t.seq.txOff = q.txOff
  envIn : t.envIn = s.envIn.tail
  host : KeepsHostSide s t
  memory : KeepsMemory s t
  bytesLeft : q.txOff < xferTxLen q →
    t.trace = .regRead slot s.cfg.regs.fifoLength (some w) :: s.trace ∧ t.seq.fill = w ∧ t.seq.sp = .nextChunk ∧
      t.status = s.status
  allSent : xferTxLen q ≤ q.txOff →
    t.trace = .regRead slot s.cfg.regs.command (some w) :: s.trace ∧ t.seq.c = w ∧ t.seq.polls = 0 ∧
      t.seq.sp = .pollStatus ∧ t.status = { s.status with phase := .await }

theorem streamLoop_of_bytesLeft (h : s.envIn = .ok b :: rest) {q : Seq} (hlt : q.txOff < xferTxLen q) :
    streamLoop slot { s with seq := q } = advanced (.regRead slot s.cfg.regs.fifoLength (some (s.answerByte b 0)))
      { q with fill := s.answerByte b 0, sp := .nextChunk } s.status.phase s := by
  rw [streamLoop, if_pos hlt, readFill, regRead_of_answer (s := { s with seq := q }) h]
  rfl

theorem streamLoop_of_allSent (h : s.envIn = .ok b :: rest) {q : Seq} (hle : xferTxLen q ≤ q.txOff) :
    streamLoop slot { s with seq := q } = advanced (.regRead slot s.cfg.regs.command (some (s.answerByte b 0)))
      { q with polls := 0, c := s.answerByte b 0, sp := .pollStatus } .await s := by
  rw [streamLoop, if_neg (Nat.not_lt.2 hle), pollCommand,
    regRead_of_answer (s := beginAwait { s with seq := q }) (by simpa using h)]
  rfl

theorem streamLoop_tested (h : s.envIn = .ok b :: rest) (q : Seq) :
    LoopTested slot (s.answerByte b 0) q s (streamLoop slot { s with seq := q }) := by
  rcases Nat.lt_or_ge q.txOff (xferTxLen q) with hlt | hle
  · rw [streamLoop_of_bytesLeft h hlt]
    exact ⟨rfl, rfl, advanced_keepsHostSide _ _ _ s, advanced_keepsMemory _ _ _ s, fun _ => ⟨rfl, rfl, rfl, rfl⟩,
      fun hle => absurd hle (Nat.not_le.2 hlt)⟩
  · rw [streamLoop_of_allSent h hle]
    exact ⟨rfl, rfl, advanced_keepsHostSide _ _ _ s, advanced_keepsMemory _ _ _ s,
      fun hlt => absurd hle (Nat.not_le.2 hlt), fun _ => ⟨rfl, rfl, rfl, rfl, rfl⟩⟩

/-- The step after the TRANSCEIVE command: tx_off <- chunk, and the loop test. -/
theorem streamEntry_tested {v : Byte} (hsp : s.seq.sp = .streamEntry) (h : s.envIn = .ok [v] :: rest) :
    LoopTested slot v { s.seq with txOff := s.seq.chunk } s (transceiveStep slot s) := by
  rw [transceiveStep_streamEntry hsp]
  exact streamLoop_tested h _

/-- The step after a later chunk: tx_off <- tx_off + chunk, and the loop test. -/
theorem streamBack_tested {v : Byte} (hsp : s.seq.sp = .streamBack) (h : s.envIn = .ok [v] :: rest) :
    LoopTested slot v { s.seq with txOff := s.seq.txOff + s.seq.chunk } s (transceiveStep slot s) := by
  rw [transceiveStep_streamBack hsp]
  exact streamLoop_tested h _

theorem laterChunk_of_room {q : Seq} (h : q.fill.toNat < 64) :
    laterChunk q = min (64 - q.fill.toNat) (xferTxLen q - q.txOff) := if_pos h

theorem laterChunk_of_full {q : Seq} (h : 64 ≤ q.fill.toNat) : laterChunk q = 0 := if_neg (Nat.not_lt.2 h)

theorem nextChunk_of_ok {n : Nat} (h : s.envIn = .ok b :: rest) (hn : laterChunk s.seq = n) (h0 : n ≠ 0) :
    nextChunk slot s = advanced (.fifoWrite slot (s.txBytes s.seq.txOff n) true)
      { s.seq with chunk := n, sp := .streamBack } s.status.phase s := by
  subst hn
  simp only [nextChunk, if_neg h0]
  exact fifoWrite_of_ok (b := b) (rest := rest) h

theorem nextChunk_of_full (h : 64 ≤ s.seq.fill.toNat) :
    nextChunk slot s = streamLoop slot { s with seq := { s.seq with chunk := 0 } } := by
  simp [nextChunk, laterChunk_of_full h]

/-! ## Arming -/

theorem transceiveFirst_of_legal {p d : Byte} (hlen : xferTxLen s.seq ≤ s.cfg.txMax)
    (hpair : deriveTimer (10 * timeoutUsec s.seq) = some (p, d)) :
    transceiveFirst slot s = armWrite slot 0 (holdPair p d s) := by
  have hpair : deriveTimer (timeoutRelax * timeoutUsec s.seq) = some (p, d) := hpair
  simp [transceiveFirst, Nat.not_lt.2 hlen, hpair]

theorem armWrite_of_ok {i : Nat} {w : Entry} (hw : (transceiveArmWrites s.cfg.regs s.seq.p s.seq.d)[i]? = some w)
    (h : s.envIn = .ok b :: rest) :
    armWrite slot i s =
      goto (if i = 6 then .firstChunk else .op (i + 1)) (answered (.regWrite slot w.1 w.2 true) s) := by
  simp only [armWrite, hw]
  exact regWrite_of_ok h

/-- The first `n` of the seven writes of step 1 as the port sees them, newest first. -/
def armEvents (slot : Byte) (rm : RegMap) (p d : Byte) (n : Nat) : List PortEvent :=
  (((transceiveArmWrites rm p d).take n).map fun w => .regWrite slot w.1 w.2 true).reverse

theorem armEvents_succ {rm : RegMap} {p d : Byte} {n : Nat} {w : Entry}
    (hw : (transceiveArmWrites rm p d)[n]? = some w) :
    armEvents slot rm p d (n + 1) = .regWrite slot w.1 w.2 true :: armEvents slot rm p d n := by
  simp [armEvents, List.take_add_one, hw]

/-- From `s`, whose timer pair is held, to `t` the first `n` writes of step 1 have been answered ok. -/
structure Armed (slot : Byte) (n : Nat) (rest : List Answer) (s t : State) : Prop where
  wentOn : WentOn s t (armEvents slot s.cfg.regs s.seq.p s.seq.d n) (List.replicate (7 - n) (.ok []) ++ rest)
  sp : t.seq.sp = if n = 7 then .firstChunk else .op n

/-- The next of the seven writes. -/
theorem Armed.next {t : State} {n : Nat} (h : Armed slot n rest s t) (hn : n < 7) :
    Armed slot (n + 1) rest s (armWrite slot n t) := by
  obtain ⟨hwent, _⟩ := h
  obtain ⟨w, hw⟩ : ∃ w, (transceiveArmWrites s.cfg.regs s.seq.p s.seq.d)[n]? = some w :=
    ⟨_, List.getElem?_eq_getElem hn⟩
  have hleft : List.replicate (7 - n) (Answer.ok []) ++ rest =
      .ok [] :: (List.replicate (7 - (n + 1)) (.ok []) ++ rest) := by
    rw [show 7 - n = 7 - (n + 1) + 1 by omega, List.replicate_succ, List.cons_append]
  have henv := hwent.envIn.trans hleft
  rw [armWrite_of_ok (by rw [hwent.cfg, hwent.p, hwent.d]; exact hw) henv]
  refine ⟨?_, by simp⟩
  have hstep := wentOn_answered (.regWrite slot w.1 w.2 true) (if n = 6 then .firstChunk else .op (n + 1)) t
  rw [henv] at hstep
  rw [armEvents_succ hw]
  exact hwent.trans hstep

/-! ## The drain and the end -/

theorem drainLength_of_ok {v : Byte} (h : s.envIn = .ok [v] :: rest) :
    drainLength slot s = advanced (.regRead slot s.cfg.regs.fifoLength (some v))
      { s.seq with avail := v, sp := .drainRead } .drain s := by
  rw [drainLength, regRead_of_ok (s := setPhase .drain s) (by simpa using h)]
  rfl

theorem drainRead_of_empty (h : s.seq.avail = 0) : drainRead slot s = raiseTransceive .empty s := if_pos h

theorem drainRead_of_ok {bytes : List Byte} (ha : s.seq.avail ≠ 0)
    (hlen : bytes.length = min s.seq.avail.toNat (xferCap s.seq)) (h : s.envIn = .ok bytes :: rest) :
    drainRead slot s = advanced (.fifoRead slot (min s.seq.avail.toNat (xferCap s.seq)) (some bytes))
      { s.seq with n := min s.seq.avail.toNat (xferCap s.seq), bytes := bytes, sp := .drainFlush }
      s.status.phase s := by
  rw [drainRead, if_neg ha]
  exact fifoRead_of_ok (rest := rest) h hlen

theorem truncated_congr {q r : Seq} (hcap : r.larg1 = q.larg1) (havail : r.avail = q.avail) :
    truncated r = truncated q := by
  rw [truncated, xferCap, hcap, havail]
  rfl

theorem drainFlush_of_noFlush (h : truncated s.seq = false ∨ s.ctrl.surplusFlush = false) :
    drainFlush slot s = succeed (storeRx s.seq.bytes s) :=
  if_neg (by obtain h | h := h <;> simp [h])

theorem drainFlush_of_flush (ht : truncated s.seq = true) (hc : s.ctrl.surplusFlush = true) :
    drainFlush slot s =
      regRead slot s.cfg.regs.control failTransceive (holdV .flushWrite) (storeRx s.seq.bytes s) :=
  if_pos (by simp [ht, hc])

/-- Once the step after the FifoRead has put the bytes into RXBUF, only a failure of its own read takes them away. -/
theorem drainFlush_holdsAnswer (h : s.ctrl.surplusFlush = false ∨ s.nextAnswer ≠ .fail) :
    HoldsAnswer (drainFlush slot s) s.seq.bytes := by
  have hstored := storeRx_holdsAnswer s.seq.bytes s
  by_cases hflush : truncated s.seq = true ∧ s.ctrl.surplusFlush = true
  · obtain ⟨ht, hc⟩ := hflush
    rw [drainFlush_of_flush ht hc]
    obtain ⟨hf, _⟩ | ⟨_, v, hread⟩ :=
      regRead_cases slot s.cfg.regs.control failTransceive (holdV .flushWrite) (storeRx s.seq.bytes s)
    · obtain hc' | hf' := h
      · rw [hc] at hc'
        cases hc'
      · exact absurd hf hf'
    · rw [hread]
      exact hstored
  · rw [drainFlush_of_noFlush (by simpa [Decidable.or_iff_not_imp_left] using hflush)]
    exact hstored

/-- The end of a successful exchange, seen from a state `s` that only the port, RXBUF and the hidden state have left. -/
theorem succeed_transceiveSucceeded {u : State} {n : Nat} {cut : Bool} {events : List PortEvent}
    (hk : KeepsHostSide s u) (hst : u.status = s.status) (htr : u.trace = events ++ s.trace) (hn : u.seq.n = n)
    (hcut : truncated u.seq = cut) : TransceiveSucceeded s (succeed u) n cut events := by
  subst hn hcut
  exact ⟨rfl, by rw [succeed_status, hst]; rfl, htr, hk⟩

theorem flushWrite_of_set (h : setValue s.seq.v s.cfg.regs.flushFifo = none) : flushWrite slot s = succeed s := by
  simp [flushWrite, h]

theorem flushWrite_of_ok {w : Byte} (hw : setValue s.seq.v s.cfg.regs.flushFifo = some w)
    (h : s.envIn = .ok b :: rest) :
    flushWrite slot s = goto .finish (answered (.regWrite slot s.cfg.regs.control w true) s) := by
  simp only [flushWrite, hw]
  exact regWrite_of_ok h

/-! ## Runs -/

theorem exec_of_step {t : State} (h : transceiveStep slot s = t) : exec (.transceive slot x) s = .next t :=
  congrArg _ h

/-- A run of `n` steps and one step more. -/
theorem runSteps_snoc {c : Instr} {n : Nat} {t u : State} (h : runSteps c n s = some t) (ht : exec c t = .next u) :
    runSteps c (n + 1) s = some u := by
  induction n generalizing s with
  | zero =>
    cases h
    simp [runSteps, ht]
  | succ n ih =>
    rw [runSteps] at h ⊢
    cases hs : exec c s with
    | next r =>
      rw [hs] at h
      exact ih h
    | fault r =>
      rw [hs] at h
      cases h
    | refused r =>
      rw [hs] at h
      cases h

end Steps

/-! ## Arming and streaming -/

/-- The first step: the timer pair is held before the first of the seven writes. -/
theorem transceiveStep_armed {slot p d : Byte} {s : State} {rest : List Answer} (hsp : s.seq.sp = .op 0)
    (hlen : xferTxLen s.seq ≤ s.cfg.txMax) (hpair : deriveTimer (10 * timeoutUsec s.seq) = some (p, d))
    (henv : s.envIn = List.replicate 7 (.ok []) ++ rest) :
    Armed slot 1 rest (holdPair p d s) (transceiveStep slot s) := by
  have hstart : Armed slot 0 rest (holdPair p d s) (holdPair p d s) := ⟨WentOn.refl henv, hsp⟩
  rw [transceiveStep_op_zero hsp, transceiveFirst_of_legal hlen hpair]
  exact hstart.next (by decide)

/-- The states after each of the seven writes. -/
theorem runSteps_armed {slot x p d : Byte} {s : State} {rest : List Answer} (hsp : s.seq.sp = .op 0)
    (hlen : xferTxLen s.seq ≤ s.cfg.txMax) (hpair : deriveTimer (10 * timeoutUsec s.seq) = some (p, d))
    (henv : s.envIn = List.replicate 7 (.ok []) ++ rest) {n : Nat} (h1 : 1 ≤ n) (h7 : n ≤ 7) :
    ∃ t, runSteps (.transceive slot x) n s = some t ∧ Armed slot n rest (holdPair p d s) t := by
  induction n, h1 using Nat.le_induction with
  | base => exact ⟨_, runSteps_snoc rfl (exec_of_step rfl), transceiveStep_armed hsp hlen hpair henv⟩
  | succ n hn ih =>
    obtain ⟨t, hrun, harmed⟩ := ih (by omega)
    obtain ⟨i, rfl⟩ : ∃ i, n = i + 1 := ⟨n - 1, by omega⟩
    have hspt : t.seq.sp = .op (i + 1) := by rw [harmed.sp, if_neg (by omega)]
    exact ⟨_, runSteps_snoc hrun (exec_of_step (transceiveStep_op_succ hspt)), harmed.next (by omega)⟩

/-- Settles O46, by the number of writes answered. -/
theorem transceiveArmsWithSevenWrites : Obligations.TransceiveArmsWithSevenWrites := by
  intro slot x s p d rest hsp hlen hpair henv
  have harm {n : Nat} (h1 : 1 ≤ n) (h7 : n ≤ 7) := runSteps_armed (slot := slot) (x := x) hsp hlen hpair henv h1 h7
  refine ⟨?_, fun n h7 => ?_, ?_⟩
  · exact ⟨_, exec_of_step rfl, (transceiveStep_armed hsp hlen hpair henv).wentOn.status⟩
  · cases n with
    | zero => exact ⟨s, rfl, rfl⟩
    | succ n =>
      obtain ⟨t, hrun, harmed⟩ := harm (Nat.le_add_left 1 n) h7
      exact ⟨t, hrun, harmed.wentOn.status⟩
  · obtain ⟨t, hrun, harmed⟩ := harm (n := 7) (by omega) (Nat.le_refl 7)
    exact ⟨t, hrun, harmed.sp, harmed.wentOn.envIn, harmed.wentOn.trace, harmed.wentOn.keepsHostSide,
      harmed.wentOn.bufByte⟩

/-- Settles O47: the first chunk, the TRANSCEIVE command, and the loop test from tx_off = the chunk on. -/
theorem transceiveWritesTheFirstChunkThenStarts : Obligations.TransceiveWritesTheFirstChunkThenStarts := by
  intro slot x s len b1 b2 v rest hsp hlen henv
  subst hlen
  let t1 := afterFirstChunk slot s
  let t2 := afterStart slot t1
  have henv1 : t1.envIn = .ok b2 :: .ok [v] :: rest := congrArg List.tail henv
  have henv2 : t2.envIn = .ok [v] :: rest := congrArg List.tail henv1
  have h1 : transceiveStep slot s = t1 := (transceiveStep_firstChunk hsp).trans (firstChunk_of_ok henv)
  have h2 : transceiveStep slot t1 = t2 := (transceiveStep_startExchange rfl).trans (startExchange_of_ok henv1)
  have h3 : LoopTested slot v { t2.seq with txOff := t2.seq.chunk } t2 (transceiveStep slot t2) :=
    streamEntry_tested rfl henv2
  have hk1 : KeepsHostSide s t1 := advanced_keepsHostSide _ _ _ s
  have hm1 : KeepsMemory s t1 := advanced_keepsMemory _ _ _ s
  have hk2 : KeepsHostSide s t2 := keepsHostSide_trans hk1 (advanced_keepsHostSide _ _ _ t1)
  have hm2 : KeepsMemory s t2 := keepsMemory_trans hm1 (advanced_keepsMemory _ _ _ t1)
  have hbytes : t1.trace = .fifoWrite slot ((List.range (min 64 (xferTxLen s.seq))).map fun k => s.bufByte (0x100 + k))
      true :: s.trace := by simp [t1, afterFirstChunk, State.txBytes_eq]
  refine ⟨t1, t2, _, exec_of_step h1, hbytes, rfl, rfl, hk1, hm1, exec_of_step h2, rfl, rfl, rfl, hk2, hm2,
    exec_of_step rfl, h3.txOff, h3.envIn.trans (by rw [henv2]; rfl), keepsHostSide_trans hk2 h3.host,
    keepsMemory_trans hm2 h3.memory, fun hlt => h3.bytesLeft ?_, fun hle => h3.allSent ?_⟩
  · show min 64 (xferTxLen s.seq) < xferTxLen s.seq
    exact Nat.lt_of_le_of_lt (Nat.min_le_left _ _) hlt
  · show xferTxLen s.seq ≤ min 64 (xferTxLen s.seq)
    exact Nat.le_min.2 ⟨hle, Nat.le_refl _⟩

/-- Settles O48: the next chunk fits the room the FIFO has, and the loop test follows it, or comes at once where there
is no room. -/
theorem transceiveLaterChunksNeverOverfill : Obligations.TransceiveLaterChunksNeverOverfill := by
  intro slot x s len n b v rest hsp hlen hlt henv hn
  subst hlen
  refine ⟨fun hroom => ?_, fun hfull => ?_⟩
  · have hpos : 0 < n := by omega
    have hchunk : laterChunk s.seq = n := (laterChunk_of_room hroom).trans hn.symm
    have h1 := (transceiveStep_nextChunk (slot := slot) hsp).trans (nextChunk_of_ok henv hchunk (by omega))
    have h2 := streamBack_tested (slot := slot) (v := v) (rest := rest)
      (s := advanced (.fifoWrite slot (s.txBytes s.seq.txOff n) true) { s.seq with chunk := n, sp := .streamBack }
        s.status.phase s) rfl (by simp [henv])
    refine ⟨by omega, hpos, _, _, exec_of_step h1, rfl, rfl, rfl, advanced_keepsHostSide _ _ _ s,
      advanced_keepsMemory _ _ _ s, exec_of_step rfl, h2.txOff, h2.envIn.trans (by simp [henv]),
      keepsHostSide_trans (advanced_keepsHostSide _ _ _ s) h2.host,
      keepsMemory_trans (advanced_keepsMemory _ _ _ s) h2.memory, h2.bytesLeft,
      fun hall => h2.allSent (Nat.le_of_eq hall.symm)⟩
  · have h1 := (transceiveStep_nextChunk (slot := slot) hsp).trans (nextChunk_of_full hfull)
    have h2 := streamLoop_tested (slot := slot) henv { s.seq with chunk := 0 }
    obtain ⟨htrace, hfill, hnext, hst⟩ := h2.bytesLeft hlt
    exact ⟨_, _, exec_of_step h1, htrace, hfill, hnext, h2.txOff, hst, h2.envIn.trans (by simp [henv]), h2.host,
      h2.memory⟩

/-! ## The drain and the end of the exchange -/

/-- Settles O55: FIFO_LENGTH is read first, then EMPTY or one FifoRead, then RXBUF takes the bytes. -/
theorem drainReadsAtMostTheCapacity : Obligations.DrainReadsAtMostTheCapacity := by
  refine ⟨fun slot x s v rest hsp henv => ?_, fun slot x s hsp => ⟨fun ha => ?_, ?_⟩⟩
  · exact ⟨_, exec_of_step ((transceiveStep_drainLength hsp).trans (drainLength_of_ok henv)), rfl, rfl, rfl, rfl,
      advanced_keepsHostSide _ _ _ s, advanced_keepsMemory _ _ _ s⟩
  · exact ⟨_, exec_of_step ((transceiveStep_drainRead hsp).trans (drainRead_of_empty ha)),
      raiseTransceive_failed .empty s, rfl⟩
  · intro n bytes rest ha hn hlen henv
    subst hn
    refine ⟨_, exec_of_step ((transceiveStep_drainRead hsp).trans (drainRead_of_ok ha hlen henv)), rfl, rfl, rfl, rfl,
      rfl, by simp [henv], advanced_keepsHostSide _ _ _ s, advanced_keepsMemory _ _ _ s,
      _, exec_of_step (transceiveStep_drainFlush rfl), fun hflush => drainFlush_holdsAnswer hflush⟩

/-- The surplus flush where FLUSH_FIFO is set already (40_primitives.md R132): no write, and the command ends. -/
theorem runToEnd_flushWrite_of_set {slot x : Byte} {s : State} (hsp : s.seq.sp = .flushWrite)
    (hw : setValue s.seq.v s.cfg.regs.flushFifo = none) :
    runToEnd (.transceive slot x) 2 s = some (succeed s) :=
  runToEnd_succ (exec_of_step ((transceiveStep_flushWrite hsp).trans (flushWrite_of_set hw)))

/-- The surplus flush where FLUSH_FIFO is not set: it is written, and the command ends in the step after. -/
theorem runToEnd_flushWrite_of_ok {slot x w : Byte} {s : State} {b : List Byte} {rest : List Answer}
    (hsp : s.seq.sp = .flushWrite) (hb : s.status.busy = true)
    (hw : setValue s.seq.v s.cfg.regs.flushFifo = some w) (henv : s.envIn = .ok b :: rest) :
    runToEnd (.transceive slot x) 2 s =
      some (succeed (goto .finish (answered (.regWrite slot s.cfg.regs.control w true) s))) := by
  have hwrite := (transceiveStep_flushWrite (slot := slot) hsp).trans (flushWrite_of_ok hw henv)
  rw [runToEnd_succ (exec_of_step hwrite), runOn]
  simp only [goto_status, answered_status, hb, if_true]
  exact runToEnd_succ (exec_of_step (transceiveStep_finish rfl))

/-- Settles O56: the bytes go to RXBUF, then the end comes at once, or after the surplus flush. -/
theorem successfulExchangeReportsLengthAndTruncation : Obligations.SuccessfulExchangeReportsLengthAndTruncation := by
  intro slot x s cut hcut
  have hcut : truncated s.seq = cut := hcut.symm
  have hstored := storeRx_keepsHostSide s.seq.bytes s
  refine ⟨fun hsp hno => ?_, fun v w rest hsp hc hflush hb hw henv => ?_, fun hsp => ?_⟩
  · refine ⟨_, exec_of_step ((transceiveStep_drainFlush hsp).trans (drainFlush_of_noFlush (by rwa [hcut]))), ?_,
      storeRx_holdsAnswer s.seq.bytes s, rfl⟩
    exact succeed_transceiveSucceeded hstored rfl rfl rfl hcut
  · have hread : s.envIn = .ok [v] :: s.envIn.tail := by rw [henv]; rfl
    rw [hc] at hcut
    let t1 := holdV .flushWrite v (answered (.regRead slot s.cfg.regs.control (some v)) (storeRx s.seq.bytes s))
    have h1 : transceiveStep slot s = t1 := (transceiveStep_drainFlush hsp).trans
      ((drainFlush_of_flush hcut hflush).trans (regRead_of_ok (s := storeRx s.seq.bytes s) hread))
    have hk1 : KeepsHostSide s t1 := keepsHostSide_holdV_answered hstored _ _ _
    have ha1 : HoldsAnswer t1 s.seq.bytes := holdsAnswer_congr (storeRx_holdsAnswer s.seq.bytes s) rfl
    cases w with
    | none =>
      exact ⟨t1, succeed t1, exec_of_step h1, runToEnd_flushWrite_of_set rfl hw.symm,
        succeed_transceiveSucceeded hk1 rfl rfl rfl hcut, holdsAnswer_congr ha1 (succeed_mem t1)⟩
    | some w =>
      have hwrite : t1.envIn = .ok [] :: rest := congrArg List.tail henv
      let t2 := goto .finish (answered (.regWrite slot t1.cfg.regs.control w true) t1)
      have hk2 : KeepsHostSide s t2 := keepsHostSide_goto_answered hk1 _ _
      refine ⟨t1, succeed t2, exec_of_step h1, runToEnd_flushWrite_of_ok rfl hb hw.symm hwrite, ?_,
        holdsAnswer_congr ha1 (by simp [t2])⟩
      have hcut2 : truncated t2.seq = true := (truncated_congr (by simp [t2, t1]) (by simp [t2, t1])).trans hcut
      exact succeed_transceiveSucceeded hk2 (by simp [t2, t1]) (by simp [t2, t1, updateEvents]) (by simp [t2, t1]) hcut2
  · refine ⟨_, exec_of_step (transceiveStep_finish hsp), ?_, fun _ => rfl, rfl⟩
    exact succeed_transceiveSucceeded (keepsHostSide_refl s) rfl rfl rfl hcut

end Sys2Proof.Machine
end

section
/-! What a step of SEQ keeps: the host's side, memory and PHASE outside TRANSCEIVE, RESULT and the flags while a command
runs, and what the end of a command shows. -/

namespace Sys2Proof.Machine

open Sys2Proof.Safety

/-! ## The host's side -/

theorem keepsHostSide_answered {s t : State} (ev : PortEvent) (h : KeepsHostSide (answered ev s) t) :
    KeepsHostSide s t := h

theorem succeed_keepsHostSide (s : State) : KeepsHostSide s (succeed s) :=
  ⟨rfl, rfl, rfl, rfl, rfl, rfl, rfl, rfl, rfl, fun _ _ => rfl⟩

theorem ListingOutcome.keepsHostSide {slot : Byte} {s t : State} (h : ListingOutcome slot s t) :
    KeepsHostSide s t := by
  cases h with
  | ended r => exact complete_keepsHostSide r s
  | raised c r hc => exact raiseError_keepsHostSide c r s
  | failed ev r hev hf => exact keepsHostSide_answered ev (raiseError_keepsHostSide .transport r _)
  | held us j q hsp hq => exact keepsHostSide_refl s
  | went ev j q hev hf hsp hq => exact keepsHostSide_refl s

theorem TransceiveOutcome.keepsHostSide {slot : Byte} {s t : State} (h : TransceiveOutcome slot s t) :
    KeepsHostSide s t := by
  have hstored := storeRx_keepsHostSide s.seq.bytes s
  cases h with
  | storedAndSucceeded hs => exact keepsHostSide_trans hstored (succeed_keepsHostSide _)
  | succeeded hs hsp => exact succeed_keepsHostSide s
  | raised c hc hi => exact raiseTransceive_keepsHostSide c s
  | failed ev hev hf => exact keepsHostSide_answered ev (raiseTransceive_keepsHostSide .transport _)
  | storedAndFailed ev hev hf =>
    exact keepsHostSide_trans hstored (keepsHostSide_answered ev (raiseTransceive_keepsHostSide .transport _))
  | yielded us q hs hsp hq => exact keepsHostSide_refl s
  | went ev q hev hf hsp hd hq => exact keepsHostSide_refl s
  | entered ev q hev hf hp hq => exact keepsHostSide_refl s
  | stored ev q hev hf hs hsp hq => exact hstored

/-- Settles O21: each way a step can go touches RXBUF, RESULT, STATUS, the hidden state and the transport port only. -/
theorem commandStepsKeepTheHostSide : Obligations.CommandStepsKeepTheHostSide := by
  intro i s t h
  obtain ⟨_, hl⟩ | ⟨_, ht⟩ := exec_outcome h
  · exact hl.keepsHostSide
  · exact ht.keepsHostSide

/-! ## Memory and PHASE -/

theorem ListingOutcome.keepsMemory_and_phase {slot : Byte} {s t : State} (h : ListingOutcome slot s t) :
    KeepsMemory s t ∧ t.status.phase = s.status.phase := by
  cases h with
  | ended r => exact ⟨fun _ => rfl, rfl⟩
  | raised c r hc => exact ⟨fun _ => rfl, rfl⟩
  | failed ev r hev hf => exact ⟨fun _ => rfl, rfl⟩
  | held us j q hsp hq => exact ⟨fun _ => rfl, rfl⟩
  | went ev j q hev hf hsp hq => exact ⟨fun _ => rfl, rfl⟩

/-- Settles O22: a command other than TRANSCEIVE ends by `complete` or `raiseError`, which leave memory and PHASE. -/
theorem onlyTransceiveWritesRxbufAndPhase : Obligations.OnlyTransceiveWritesRxbufAndPhase := by
  intro i s t hi h
  exact (exec_listing_outcome i s t hi h).keepsMemory_and_phase

/-! ## A step that goes on and a step that ends the command -/

/-- From `s` to `t` a command went on: RESULT, STATUS but for PHASE, and the latches stay. -/
def GoesOn (s t : State) : Prop :=
  t.result = s.result ∧ t.status = { s.status with phase := t.status.phase } ∧ SameLatch s.seq t.seq

/-- From `s` to `t` a command ended: BUSY is 0, DONE is set, and ERR and ECODE stay or show an error, with TRUNC 0. -/
def Ends (s t : State) : Prop :=
  t.status.busy = false ∧ t.status.done = true ∧
    ((t.status.err = s.status.err ∧ t.status.ecode = s.status.ecode) ∨
      (t.status.err = true ∧ t.status.ecode ≠ .none ∧ t.status.trunc = false))

theorem GoesOn.busy_eq {s t : State} (h : GoesOn s t) : t.status.busy = s.status.busy := by
  obtain ⟨_, hst, _⟩ := h
  rw [hst]

theorem ends_complete (r : Word) (s : State) : Ends s (complete r s) := ⟨rfl, rfl, .inl ⟨rfl, rfl⟩⟩

theorem ends_succeed (s : State) : Ends s (succeed s) := ⟨rfl, rfl, .inl ⟨rfl, rfl⟩⟩

theorem ends_raiseError {c : ErrCode} (hc : c ≠ .none) (r : Word) (s u : State) : Ends s (raiseError c r u) :=
  ⟨rfl, rfl, .inr ⟨rfl, hc, rfl⟩⟩

theorem ends_raiseTransceive {c : ErrCode} (hc : c ≠ .none) (s u : State) : Ends s (raiseTransceive c u) :=
  ⟨rfl, rfl, .inr ⟨rfl, hc, rfl⟩⟩

theorem ListingOutcome.goesOn_or_ends {slot : Byte} {s t : State} (h : ListingOutcome slot s t) :
    GoesOn s t ∨ Ends s t := by
  cases h with
  | ended r => exact .inr (ends_complete r s)
  | raised c r hc => exact .inr (ends_raiseError hc r s s)
  | failed ev r hev hf => exact .inr (ends_raiseError (by decide) r s _)
  | held us j q hsp hq => exact .inl ⟨rfl, rfl, hq⟩
  | went ev j q hev hf hsp hq => exact .inl ⟨rfl, rfl, hq⟩

theorem TransceiveOutcome.goesOn_or_ends {slot : Byte} {s t : State} (h : TransceiveOutcome slot s t) :
    GoesOn s t ∨ Ends s t := by
  cases h with
  | storedAndSucceeded hs => exact .inr (ends_succeed (storeRx s.seq.bytes s))
  | succeeded hs hsp => exact .inr (ends_succeed s)
  | raised c hc hi => exact .inr (ends_raiseTransceive hc s s)
  | failed ev hev hf => exact .inr (ends_raiseTransceive (by decide) s _)
  | storedAndFailed ev hev hf => exact .inr (ends_raiseTransceive (by decide) s _)
  | yielded us q hs hsp hq => exact .inl ⟨rfl, rfl, hq⟩
  | went ev q hev hf hsp hd hq => exact .inl ⟨rfl, rfl, hq⟩
  | entered ev q hev hf hp hq => exact .inl ⟨rfl, rfl, hq⟩
  | stored ev q hev hf hs hsp hq => exact .inl ⟨rfl, rfl, hq⟩

/-- A step of a command goes on, or ends the command. -/
theorem exec_goesOn_or_ends {i : Instr} {s t : State} (h : exec i s = .next t) : GoesOn s t ∨ Ends s t := by
  obtain ⟨_, hl⟩ | ⟨_, ht⟩ := exec_outcome h
  · exact hl.goesOn_or_ends
  · exact ht.goesOn_or_ends

/-- Settles O23: with BUSY = 1 after it the step did not end the command, so it went on. -/
theorem runningCommandKeepsResultFlagsAndLatches : Obligations.RunningCommandKeepsResultFlagsAndLatches := by
  intro i s t h _ hbt
  obtain hgo | ⟨hidle, _⟩ := exec_goesOn_or_ends h
  · exact hgo
  · rw [hbt] at hidle
    cases hidle

/-- Settles O24: with BUSY = 0 after it the step did not go on, which would have kept BUSY, so it ended the command. -/
theorem commandEndSetsDoneAndShowsAnyError : Obligations.CommandEndSetsDoneAndShowsAnyError := by
  intro i s t h hbs hbt
  obtain hgo | ⟨_, hend⟩ := exec_goesOn_or_ends h
  · have hbusy := hgo.busy_eq
    rw [hbs, hbt] at hbusy
    cases hbusy
  · exact hend

end Sys2Proof.Machine
end

section
/-! ARG0..2 beside a running command: every step of SEQ gives the same with other values in them (10_state.md R37). -/

namespace Sys2Proof.Machine

/-- The state with other values in ARG0..2. -/
def State.withArgs (a0 a1 a2 : Word) (s : State) : State :=
  { s with arg0 := a0, arg1 := a1, arg2 := a2 }

@[simp] theorem State.withArgs_cfg (a0 a1 a2 : Word) (s : State) : (s.withArgs a0 a1 a2).cfg = s.cfg := rfl
@[simp] theorem State.withArgs_seq (a0 a1 a2 : Word) (s : State) : (s.withArgs a0 a1 a2).seq = s.seq := rfl
@[simp] theorem State.withArgs_nextAnswer (a0 a1 a2 : Word) (s : State) :
    (s.withArgs a0 a1 a2).nextAnswer = s.nextAnswer := rfl

/-- A move of the block that does the same whatever ARG0..2 hold. -/
def IgnoresArgs (f : State → State) : Prop :=
  ∀ (a0 a1 a2 : Word) (s : State), f (s.withArgs a0 a1 a2) = (f s).withArgs a0 a1 a2

theorem ignoresArgs_complete (r : Word) : IgnoresArgs (complete r) := fun _ _ _ _ => rfl

theorem ignoresArgs_completeWithV : IgnoresArgs completeWithV := fun _ _ _ _ => rfl

theorem ignoresArgs_raiseError (c : ErrCode) (r : Word) : IgnoresArgs (raiseError c r) := fun _ _ _ _ => rfl

theorem ignoresArgs_raiseTransceive (c : ErrCode) : IgnoresArgs (raiseTransceive c) := fun _ _ _ _ => rfl

theorem ignoresArgs_failTransceive : IgnoresArgs failTransceive := fun _ _ _ _ => rfl

theorem ignoresArgs_goto (sp : Sp) : IgnoresArgs (goto sp) := fun _ _ _ _ => rfl

theorem ignoresArgs_holdV (sp : Sp) (v : Byte) : IgnoresArgs (holdV sp v) := fun _ _ _ _ => rfl

/-- A hidden state written over the old one. -/
theorem ignoresArgs_setSeq (f : Seq → Seq) : IgnoresArgs fun s => { s with seq := f s.seq } := fun _ _ _ _ => rfl

theorem ignoresArgs_succeed : IgnoresArgs succeed := fun _ _ _ _ => rfl

section Moves

variable {slot : Byte} {onFail onOk : State → State} {a0 a1 a2 : Word}

/-! ## The transactions -/

theorem regRead_withArgs {onByte : Byte → State → State} (hf : IgnoresArgs onFail)
    (hok : ∀ b, IgnoresArgs (onByte b)) (a : Byte) (s : State) :
    regRead slot a onFail onByte (s.withArgs a0 a1 a2) = (regRead slot a onFail onByte s).withArgs a0 a1 a2 := by
  unfold regRead
  rw [State.withArgs_nextAnswer]
  cases s.nextAnswer with
  | fail => exact hf _ _ _ (answered (.regRead slot a none) s)
  | ok bytes =>
    exact hok (s.answerByte bytes 0) _ _ _ (answered (.regRead slot a (some (s.answerByte bytes 0))) s)

theorem fifoRead_withArgs {onBytes : List Byte → State → State} (hf : IgnoresArgs onFail)
    (hok : ∀ bytes, IgnoresArgs (onBytes bytes)) (n : Nat) (s : State) :
    fifoRead slot n onFail onBytes (s.withArgs a0 a1 a2) = (fifoRead slot n onFail onBytes s).withArgs a0 a1 a2 := by
  unfold fifoRead
  rw [State.withArgs_nextAnswer]
  cases s.nextAnswer with
  | fail => exact hf _ _ _ (answered (.fifoRead slot n none) s)
  | ok bytes =>
    exact hok (s.answerBytes bytes n) _ _ _ (answered (.fifoRead slot n (some (s.answerBytes bytes n))) s)

theorem regWrite_withArgs (hf : IgnoresArgs onFail) (hok : IgnoresArgs onOk) (a v : Byte) (s : State) :
    regWrite slot a v onFail onOk (s.withArgs a0 a1 a2) = (regWrite slot a v onFail onOk s).withArgs a0 a1 a2 := by
  unfold regWrite
  rw [State.withArgs_nextAnswer]
  cases s.nextAnswer with
  | fail => exact hf _ _ _ (answered (.regWrite slot a v false) s)
  | ok _ => exact hok _ _ _ (answered (.regWrite slot a v true) s)

theorem fifoWrite_withArgs (hf : IgnoresArgs onFail) (hok : IgnoresArgs onOk) (bytes : List Byte) (s : State) :
    fifoWrite slot bytes onFail onOk (s.withArgs a0 a1 a2) =
      (fifoWrite slot bytes onFail onOk s).withArgs a0 a1 a2 := by
  unfold fifoWrite
  rw [State.withArgs_nextAnswer]
  cases s.nextAnswer with
  | fail => exact hf _ _ _ (answered (.fifoWrite slot bytes false) s)
  | ok _ => exact hok _ _ _ (answered (.fifoWrite slot bytes true) s)

/-! ## Listings -/

/-- A register write of a listing, then on to step `j`. -/
theorem listingWrite_withArgs (a v : Byte) (r : Word) (j : Nat) (s : State) :
    regWrite slot a v (raiseError .transport r) (goto (.op j)) (s.withArgs a0 a1 a2) =
      (regWrite slot a v (raiseError .transport r) (goto (.op j)) s).withArgs a0 a1 a2 :=
  regWrite_withArgs (ignoresArgs_raiseError _ _) (ignoresArgs_goto _) a v s

theorem runOps_withArgs {fin : State → State} (hfin : IgnoresArgs fin) (ops : List SeqOp) (i : Nat) (s : State) :
    runOps slot fin ops i (s.withArgs a0 a1 a2) = (runOps slot fin ops i s).withArgs a0 a1 a2 := by
  induction ops generalizing i with
  | nil => exact hfin _ _ _ _
  | cons op rest ih =>
    cases op with
    | read a r => exact regRead_withArgs (ignoresArgs_raiseError _ _) (fun _ => ignoresArgs_holdV _ _) a s
    | write a v => exact listingWrite_withArgs a v 0 (i + 1) s
    | hold us => rfl
    | clearIfSet a m r =>
      simp only [runOps, State.withArgs_seq]
      cases clearedValue s.seq.v m with
      | none => exact ih (i + 1)
      | some w => exact listingWrite_withArgs a w r (i + 1) s
    | setIfClear a m r =>
      simp only [runOps, State.withArgs_seq]
      cases setValue s.seq.v m with
      | none => exact ih (i + 1)
      | some w => exact listingWrite_withArgs a w r (i + 1) s
    | maskIfDiffers a m b r =>
      simp only [runOps, State.withArgs_seq]
      cases maskedValue s.seq.v m b with
      | none => exact ih (i + 1)
      | some w => exact listingWrite_withArgs a w r (i + 1) s
    | table entries =>
      simp only [runOps]
      cases entries[0]? with
      | none => exact ih (i + 1)
      | some e => exact listingWrite_withArgs e.1 e.2 0 (i + 1) (setK 0 s)
    | tableNext entries =>
      simp only [runOps, State.withArgs_seq]
      cases entries[s.seq.k + 1]? with
      | none => exact ih (i + 1)
      | some e => exact listingWrite_withArgs e.1 e.2 _ i (setK (s.seq.k + 1) s)

theorem runListing_withArgs {fin : State → State} (hfin : IgnoresArgs fin) (ops : List SeqOp) (s : State) :
    runListing slot ops fin (s.withArgs a0 a1 a2) = (runListing slot ops fin s).withArgs a0 a1 a2 :=
  runOps_withArgs hfin _ _ s

theorem ignoresArgs_armStep : IgnoresArgs (armStep slot) := fun _ _ _ s =>
  runListing_withArgs (ignoresArgs_complete _) _ s

/-! ## TRANSCEIVE -/

/-- A register read of TRANSCEIVE, whose byte goes into the hidden state. -/
theorem transceiveRead_withArgs (a : Byte) (f : Byte → Seq → Seq) (s : State) :
    regRead slot a failTransceive (fun b t => { t with seq := f b t.seq }) (s.withArgs a0 a1 a2) =
      (regRead slot a failTransceive (fun b t => { t with seq := f b t.seq }) s).withArgs a0 a1 a2 :=
  regRead_withArgs ignoresArgs_failTransceive (fun b => ignoresArgs_setSeq (f b)) a s

/-- A register write of TRANSCEIVE, then on to step `sp`. -/
theorem transceiveWrite_withArgs (a v : Byte) (sp : Sp) (s : State) :
    regWrite slot a v failTransceive (goto sp) (s.withArgs a0 a1 a2) =
      (regWrite slot a v failTransceive (goto sp) s).withArgs a0 a1 a2 :=
  regWrite_withArgs ignoresArgs_failTransceive (ignoresArgs_goto sp) a v s

/-- A choice made by what ARG0..2 do not reach. -/
theorem ite_withArgs (c : Prop) [Decidable c] {t t' u u' : State} (h : t' = t.withArgs a0 a1 a2)
    (g : u' = u.withArgs a0 a1 a2) : (if c then t' else u') = (if c then t else u).withArgs a0 a1 a2 := by
  split
  · exact h
  · exact g

theorem ignoresArgs_firstChunk : IgnoresArgs (firstChunk slot) := fun _ _ _ s =>
  fifoWrite_withArgs ignoresArgs_failTransceive (ignoresArgs_goto _) _
    (beginStreaming { s with seq := { s.seq with chunk := min fifoSize (xferTxLen s.seq) } })

theorem ignoresArgs_armWrite (i : Nat) : IgnoresArgs (armWrite slot i) := by
  intro a0 a1 a2 s
  unfold armWrite
  rw [State.withArgs_cfg, State.withArgs_seq]
  cases (transceiveArmWrites s.cfg.regs s.seq.p s.seq.d)[i]? with
  | none => exact ignoresArgs_firstChunk _ _ _ s
  | some w => exact transceiveWrite_withArgs w.1 w.2 _ s

theorem ignoresArgs_transceiveFirst : IgnoresArgs (transceiveFirst slot) := by
  intro a0 a1 a2 s
  unfold transceiveFirst
  refine ite_withArgs (xferTxLen s.seq > s.cfg.txMax) (ignoresArgs_raiseTransceive _ _ _ _ s) ?_
  rw [State.withArgs_seq]
  cases deriveTimer (timeoutRelax * timeoutUsec s.seq) with
  | none => exact ignoresArgs_raiseTransceive _ _ _ _ s
  | some pair => exact ignoresArgs_armWrite 0 _ _ _ (holdPair pair.1 pair.2 s)

theorem ignoresArgs_pollCommand : IgnoresArgs (pollCommand slot) := fun _ _ _ s =>
  transceiveRead_withArgs _ (fun b q => { q with c := b, sp := .pollStatus }) s

theorem ignoresArgs_streamLoop : IgnoresArgs (streamLoop slot) := fun _ _ _ s =>
  ite_withArgs (s.seq.txOff < xferTxLen s.seq)
    (transceiveRead_withArgs _ (fun b q => { q with fill := b, sp := .nextChunk }) s)
    (ignoresArgs_pollCommand _ _ _ (beginAwait s))

theorem ignoresArgs_nextChunk : IgnoresArgs (nextChunk slot) := fun _ _ _ s =>
  ite_withArgs (laterChunk s.seq = 0) (ignoresArgs_streamLoop _ _ _ { s with seq := { s.seq with chunk := 0 } })
    (fifoWrite_withArgs ignoresArgs_failTransceive (ignoresArgs_goto _) _
      { s with seq := { s.seq with chunk := laterChunk s.seq } })

theorem ignoresArgs_pollStatus : IgnoresArgs (pollStatus slot) := fun _ _ _ s =>
  ite_withArgs (s.seq.c = 0x00) (transceiveWrite_withArgs _ _ _ s)
    (transceiveRead_withArgs _ (fun b q => { q with s := b, sp := .pollFlags }) s)

theorem ignoresArgs_endIteration : IgnoresArgs endIteration := fun _ _ _ s =>
  ite_withArgs (pollLimitReached s.cfg.pollLimit (s.seq.polls + 1) = true) rfl rfl

theorem ignoresArgs_readInterrupts : IgnoresArgs (readInterrupts slot) := fun _ _ _ s =>
  ite_withArgs (s.seq.s &&& s.cfg.regs.statIrq ≠ 0)
    (transceiveRead_withArgs _ (fun b q => { q with q := b, sp := .testIrq }) s) (ignoresArgs_endIteration _ _ _ s)

theorem ignoresArgs_pollFlags : IgnoresArgs (pollFlags slot) := fun _ _ _ s =>
  ite_withArgs (s.seq.s &&& s.cfg.regs.statErr ≠ 0)
    (transceiveRead_withArgs _ (fun b q => { q with e := b, sp := .testError }) s) (ignoresArgs_readInterrupts _ _ _ s)

theorem ignoresArgs_testError : IgnoresArgs (testError slot) := fun _ _ _ s =>
  ite_withArgs (s.seq.e &&& (s.cfg.regs.errColl ||| s.cfg.regs.errParity ||| s.cfg.regs.errFraming) ≠ 0)
    (ignoresArgs_raiseTransceive _ _ _ _ s)
    (ite_withArgs (s.ctrl.crcAbort = true ∧ s.seq.e &&& s.cfg.regs.errCrc ≠ 0)
      (ignoresArgs_raiseTransceive _ _ _ _ s) (ignoresArgs_readInterrupts _ _ _ s))

theorem ignoresArgs_testIrq : IgnoresArgs (testIrq slot) := fun _ _ _ s =>
  ite_withArgs (s.seq.q &&& s.cfg.regs.irqTimer ≠ 0 ∧ s.seq.q &&& s.cfg.regs.irqRx = 0)
    (transceiveWrite_withArgs _ _ _ s) (ignoresArgs_endIteration _ _ _ s)

theorem ignoresArgs_drainRead : IgnoresArgs (drainRead slot) := fun _ _ _ s =>
  ite_withArgs (s.seq.avail = 0) (ignoresArgs_raiseTransceive _ _ _ _ s)
    (fifoRead_withArgs ignoresArgs_failTransceive
      (fun bytes => ignoresArgs_setSeq fun q => { q with bytes := bytes, sp := .drainFlush }) _
      { s with seq := { s.seq with n := min s.seq.avail.toNat (xferCap s.seq) } })

theorem ignoresArgs_drainFlush : IgnoresArgs (drainFlush slot) := fun _ _ _ s =>
  ite_withArgs ((truncated s.seq && s.ctrl.surplusFlush) = true)
    (regRead_withArgs ignoresArgs_failTransceive (fun _ => ignoresArgs_holdV _ _) _ (storeRx s.seq.bytes s))
    (ignoresArgs_succeed _ _ _ (storeRx s.seq.bytes s))

theorem ignoresArgs_flushWrite : IgnoresArgs (flushWrite slot) := by
  intro a0 a1 a2 s
  unfold flushWrite
  rw [State.withArgs_cfg, State.withArgs_seq]
  cases setValue s.seq.v s.cfg.regs.flushFifo with
  | none => exact ignoresArgs_succeed _ _ _ s
  | some w => exact transceiveWrite_withArgs _ w _ s

theorem ignoresArgs_transceiveStep : IgnoresArgs (transceiveStep slot) := by
  intro a0 a1 a2 s
  unfold transceiveStep
  rw [State.withArgs_seq]
  cases s.seq.sp with
  | op i =>
    cases i with
    | zero => exact ignoresArgs_transceiveFirst _ _ _ s
    | succ i => exact ignoresArgs_armWrite (i + 1) _ _ _ s
  | firstChunk => exact ignoresArgs_firstChunk _ _ _ s
  | startExchange => exact transceiveWrite_withArgs _ _ _ s
  | streamEntry => exact ignoresArgs_streamLoop _ _ _ { s with seq := { s.seq with txOff := s.seq.chunk } }
  | nextChunk => exact ignoresArgs_nextChunk _ _ _ s
  | streamBack =>
    exact ignoresArgs_streamLoop _ _ _ { s with seq := { s.seq with txOff := s.seq.txOff + s.seq.chunk } }
  | pollCommand => exact ignoresArgs_pollCommand _ _ _ s
  | pollStatus => exact ignoresArgs_pollStatus _ _ _ s
  | pollFlags => exact ignoresArgs_pollFlags _ _ _ s
  | testError => exact ignoresArgs_testError _ _ _ s
  | testIrq => exact ignoresArgs_testIrq _ _ _ s
  | timedOut => exact ignoresArgs_raiseTransceive _ _ _ _ s
  | drainLength =>
    exact transceiveRead_withArgs _ (fun b q => { q with avail := b, sp := .drainRead }) (setPhase .drain s)
  | drainRead => exact ignoresArgs_drainRead _ _ _ s
  | drainFlush => exact ignoresArgs_drainFlush _ _ _ s
  | flushWrite => exact ignoresArgs_flushWrite _ _ _ s
  | finish => exact ignoresArgs_succeed _ _ _ s

end Moves

/-! ## The commands -/

/-- A step of a listing answers the same next state but for ARG0..2. -/
theorem listing_withArgs {slot : Byte} {fin : State → State} (hfin : IgnoresArgs fin) (ops : List SeqOp)
    (a0 a1 a2 : Word) (s : State) :
    (.next (runListing slot ops fin (s.withArgs a0 a1 a2)) : Host.Outcome State Fault Refusal) =
      .next ((runListing slot ops fin s).withArgs a0 a1 a2) :=
  congrArg _ (runListing_withArgs hfin ops s)

/-- A step of a command from other values in ARG0..2 is the same step with those values kept. -/
theorem exec_withArgs (i : Instr) (a0 a1 a2 : Word) (s : State) :
    ∃ t, exec i s = .next t ∧ exec i (s.withArgs a0 a1 a2) = .next (t.withArgs a0 a1 a2) := by
  cases i with
  | resetInit slot => exact ⟨_, rfl, listing_withArgs (ignoresArgs_complete _) _ _ _ _ s⟩
  | applyDefaults slot => exact ⟨_, rfl, listing_withArgs (ignoresArgs_complete _) _ _ _ _ s⟩
  | setRfMode slot => exact ⟨_, rfl, listing_withArgs (ignoresArgs_complete _) _ _ _ _ s⟩
  | setRfPower slot x => exact ⟨_, rfl, listing_withArgs (ignoresArgs_complete _) _ _ _ _ s⟩
  | clearBits slot => exact ⟨_, rfl, listing_withArgs (ignoresArgs_complete _) _ _ _ _ s⟩
  | setBits slot => exact ⟨_, rfl, listing_withArgs (ignoresArgs_complete _) _ _ _ _ s⟩
  | setMasked slot => exact ⟨_, rfl, listing_withArgs (ignoresArgs_complete _) _ _ _ _ s⟩
  | getError slot => exact ⟨_, rfl, listing_withArgs ignoresArgs_completeWithV _ _ _ _ s⟩
  | getCollPos slot => exact ⟨_, rfl, listing_withArgs ignoresArgs_completeWithV _ _ _ _ s⟩
  | getSpeeds slot => exact ⟨_, rfl, rfl⟩
  | getCarrier slot => exact ⟨_, rfl, rfl⟩
  | getMaxFrame slot => exact ⟨_, rfl, rfl⟩
  | transceive slot x => exact ⟨_, rfl, congrArg _ (ignoresArgs_transceiveStep _ _ _ s)⟩
  | setSpeed slot rate =>
    simp only [exec, execSetSpeed, State.withArgs_cfg]
    cases profileAt s.cfg.profiles rate with
    | none => exact ⟨_, rfl, rfl⟩
    | some p => exact ⟨_, rfl, listing_withArgs (ignoresArgs_complete _) _ _ _ _ s⟩
  | applyTable slot =>
    exact ⟨_, rfl, congrArg _ (ite_withArgs (tableCount s.seq.larg0 > s.cfg.txMax / 2)
      (ignoresArgs_raiseError _ _ _ _ _ s) (runListing_withArgs (ignoresArgs_complete _) _ s))⟩
  | deriveTimer slot =>
    simp only [exec, execDeriveTimer, State.withArgs_seq]
    cases deriveTimer (timeoutUsec s.seq) with
    | none => exact ⟨_, rfl, rfl⟩
    | some pair => exact ⟨_, rfl, rfl⟩
  | armTimer slot =>
    simp only [exec, execArmTimer, State.withArgs_seq]
    refine ⟨_, rfl, congrArg _ (ite_withArgs (s.seq.sp = .op 0) ?_ (ignoresArgs_armStep _ _ _ s))⟩
    cases deriveTimer (timeoutUsec s.seq) with
    | none => rfl
    | some pair => exact ignoresArgs_armStep _ _ _ (holdPair pair.1 pair.2 s)

/-- Settles O16: `exec_withArgs` at the next state the step answers. -/
theorem argWritesDoNotReachARunningCommand : Obligations.ArgWritesDoNotReachARunningCommand := by
  intro i s t a0 a1 a2 h
  obtain ⟨t', ht', hargs⟩ := exec_withArgs i a0 a1 a2 s
  rw [h] at ht'
  cases ht'
  exact hargs

end Sys2Proof.Machine
end

section
/-! The host bus as `step` shows it: whose turn it is, reads and writes of the registers, of the buffers and of reserved
offsets, block reset, and that no move of anyone writes the parameters. -/

namespace Sys2Proof

/-- The bytes of a word put back together give its low bits. -/
theorem leWord_leBytes_toNat (v : Word) {n : Nat} (h : n ≤ 4) :
    (leWord (leBytes v n)).toNat = v.toNat % 2 ^ (8 * n) := by
  induction n generalizing v with
  | zero => simp [leBytes, leWord, Nat.mod_one]
  | succ n ih =>
    have hcons : leBytes v (n + 1) = v.extractLsb' 0 8 :: leBytes (v >>> 8) n := by
      simp only [leBytes, List.range_succ_eq_map, List.map_cons, List.map_map, List.cons.injEq, true_and]
      refine List.map_congr_left fun i _ => ?_
      apply BitVec.eq_of_toNat_eq
      simp [Nat.mul_succ, Nat.add_comm, Nat.shiftRight_add]
    have hlt := leWord_toNat_lt (leBytes (v >>> 8) n) (by simp; omega)
    have hpow : 2 ^ (8 * n) ≤ 2 ^ 24 := Nat.pow_le_pow_right (by decide) (by omega)
    rw [leBytes_length] at hlt
    rw [hcons, leWord_toNat_cons _ (by omega), ih (v >>> 8) (by omega)]
    simp only [BitVec.extractLsb'_toNat, BitVec.toNat_ushiftRight, Nat.shiftRight_eq_div_pow, Nat.mul_succ]
    rw [Nat.add_comm (8 * n) 8, Nat.pow_add, Nat.mod_mul]
    simp

theorem leWord_leBytes (v : Word) {n : Nat} (h : n ≤ 4) :
    leWord (leBytes v n) = (v.setWidth (8 * n)).setWidth 32 := by
  have hpow : 2 ^ (8 * n) ≤ 2 ^ 32 := Nat.pow_le_pow_right (by decide) (by omega)
  have hlt : v.toNat % 2 ^ (8 * n) < 2 ^ (8 * n) := Nat.mod_lt _ (by positivity)
  apply BitVec.eq_of_toNat_eq
  rw [leWord_leBytes_toNat v h, BitVec.toNat_setWidth, BitVec.toNat_setWidth,
    Nat.mod_eq_of_lt (Nat.lt_of_lt_of_le hlt hpow)]

end Sys2Proof

namespace Sys2Proof.Machine

open Sys2Proof.Safety

/-! ## Whose turn it is -/

section Turns

variable {s : State} {offset : BitVec 12} {size : AccessSize} {data : Word} {rest : List HostTurn}

theorem step_of_noTurn (h : s.hostIn = []) : step s = seqStep s := by
  simp only [step, h]

theorem step_of_read (h : s.hostIn = .read offset size :: rest) :
    step s = hostRead offset size { s with hostIn := rest } := by
  simp only [step, h]

theorem step_of_write (h : s.hostIn = .write offset size data :: rest) :
    step s = hostWrite offset size data { s with hostIn := rest } := by
  simp only [step, h]

theorem step_of_reset (h : s.hostIn = .reset :: rest) : step s = .next (blockReset { s with hostIn := rest }) := by
  simp only [step, h]

end Turns

/-! ## The regions and the legal accesses -/

section Access

variable {offset : BitVec 12} {size : AccessSize}

theorem hostRegion_of_register (h : offset.toNat < 0x01C) : hostRegion offset = .reg := if_pos h

theorem hostRegion_of_txbuf (h : inTxBuf offset.toNat = true) : hostRegion offset = .txbuf := by
  have hge : ¬ offset.toNat < 0x01C := by
    rw [inTxBuf_iff] at h
    omega
  simp [hostRegion, hge, h]

theorem hostRegion_of_rxbuf (h : inRxBuf offset.toNat = true) : hostRegion offset = .rxbuf := by
  have htx : inTxBuf offset.toNat = false := by
    cases htx : inTxBuf offset.toNat with
    | false => rfl
    | true => rw [inTxBuf_not_inRxBuf htx] at h; cases h
  have hge : ¬ offset.toNat < 0x01C := by
    rw [inRxBuf_iff] at h
    omega
  simp [hostRegion, hge, htx, h]

theorem hostRegion_of_reserved (h : 0x01C ≤ offset.toNat) (hout : offset.toNat < 0x100 ∨ 0x300 ≤ offset.toNat) :
    hostRegion offset = .reserved := by
  have hge : ¬ offset.toNat < 0x01C := by omega
  have htx : ¬ inTxBuf offset.toNat = true := by
    rw [inTxBuf_iff]
    omega
  have hrx : ¬ inRxBuf offset.toNat = true := by
    rw [inRxBuf_iff]
    omega
  simp [hostRegion, hge, htx, hrx]

theorem accessAllowed_of_register (hal : offset.toNat % 4 = 0) : accessAllowed offset .four = true := by
  simp [accessAllowed, AccessSize.bytes, hal]

theorem hostRegion_ne_register (h : 0x01C ≤ offset.toNat) : hostRegion offset ≠ .reg := by
  simp only [hostRegion, Nat.not_lt.2 h, if_false]
  split
  · simp
  · split <;> simp

theorem accessAllowed_of_beyond (hal : offset.toNat % size.bytes = 0) (h : 0x01C ≤ offset.toNat) :
    accessAllowed offset size = true := by
  simp [accessAllowed, hal, hostRegion_ne_register h]

end Access

/-! ## Accesses by region -/

section Regions

variable {s : State} {offset : BitVec 12} {size : AccessSize} {data : Word}

theorem hostRead_of_register (h : offset.toNat < 0x01C) (hal : offset.toNat % 4 = 0) :
    hostRead offset .four s = .next { s with busOut := readRegister offset s :: s.busOut } := by
  rw [hostRead, if_pos (accessAllowed_of_register hal), hostReadData, hostRegion_of_register h]

theorem hostWrite_of_register (h : offset.toNat < 0x01C) (hal : offset.toNat % 4 = 0) :
    hostWrite offset .four data s = .next (writeRegister offset data s) := by
  rw [hostWrite, if_pos (accessAllowed_of_register hal), hostRegion_of_register h]

theorem hostRead_of_reserved (h : 0x01C ≤ offset.toNat) (hout : offset.toNat < 0x100 ∨ 0x300 ≤ offset.toNat)
    (hal : offset.toNat % size.bytes = 0) :
    hostRead offset size s = .next { s with busOut := 0 :: s.busOut } := by
  rw [hostRead, if_pos (accessAllowed_of_beyond hal h), hostReadData, hostRegion_of_reserved h hout]

theorem hostWrite_of_ignored (h : 0x01C ≤ offset.toNat) (hout : offset.toNat < 0x100 ∨ 0x200 ≤ offset.toNat)
    (hal : offset.toNat % size.bytes = 0) : hostWrite offset size data s = .next s := by
  rw [hostWrite, if_pos (accessAllowed_of_beyond hal h)]
  by_cases hrx : inRxBuf offset.toNat = true
  · rw [hostRegion_of_rxbuf hrx]
  · rw [inRxBuf_iff] at hrx
    rw [hostRegion_of_reserved h (by omega)]

/-- The bytes of a buffer as HOST reads them, the lowest offset first. -/
theorem hostReadData_of_buffer (h : inTxBuf offset.toNat = true ∨ inRxBuf offset.toNat = true) :
    hostReadData offset size s = leWord ((List.range size.bytes).map fun i => hostByte s (offset.toNat + i)) := by
  obtain htx | hrx := h
  · rw [hostReadData, hostRegion_of_txbuf htx]
  · rw [hostReadData, hostRegion_of_rxbuf hrx]

/-- HOST reads what a buffer holds, but for RXBUF while that may be partly written. -/
theorem hostByte_of_settled {a : Nat} (h : inRxBuf a = false ∨ rxUnsettled s = false) :
    hostByte s a = s.bufByte a := by
  refine if_neg ?_
  obtain h | h := h <;> simp [h]

/-- RXBUF is settled while SEQ is idle and before the answer to the drain's FifoRead. -/
theorem rxUnsettled_eq_false (h : s.status.busy = false ∨
    (s.seq.sp ≠ .drainFlush ∧ s.seq.sp ≠ .flushWrite ∧ s.seq.sp ≠ .finish)) : rxUnsettled s = false := by
  obtain hb | ⟨hdrain, hflush, hfinish⟩ := h
  · simp [rxUnsettled, hb]
  · simp [rxUnsettled, hdrain, hflush, hfinish]

theorem AccessSize.bytes_le (size : AccessSize) : size.bytes ≤ 4 := by cases size <;> decide

end Regions

/-! ## SEQ idle, acceptance and the registers -/

/-- Settles O15: with no host access due the step is SEQ's, and an idle SEQ waits. -/
theorem seqWaitsWhileIdle : Obligations.SeqWaitsWhileIdle := by
  intro s hb hin
  rw [step_of_noTurn hin, seqStep_of_idle hb]

/-- A 4-byte read at a register's offset hands HOST that register. -/
theorem step_of_registerRead {s : State} {offset : BitVec 12} {rest : List HostTurn}
    (hin : s.hostIn = .read offset .four :: rest) (h : offset.toNat < 0x01C) (hal : offset.toNat % 4 = 0) :
    step s = .next { s with hostIn := rest, busOut := readRegister offset s :: s.busOut } := by
  rw [step_of_read hin, hostRead_of_register h hal]
  rfl

/-- A 4-byte write at a register's offset is that register's write. -/
theorem step_of_registerWrite {s : State} {offset : BitVec 12} {v : Word} {rest : List HostTurn}
    (hin : s.hostIn = .write offset .four v :: rest) (h : offset.toNat < 0x01C) (hal : offset.toNat % 4 = 0) :
    step s = .next (writeRegister offset v { s with hostIn := rest }) := by
  rw [step_of_write hin, hostWrite_of_register h hal]

theorem issue_of_busy {w : Word} {s : State} (hb : s.status.busy = true) :
    issue w s = { s with status := s.status.overrun } := if_pos hb

theorem issue_of_idle {w : Word} {s : State} (hb : s.status.busy = false) : issue w s = accept w s :=
  if_neg (by simp [hb])

/-- Settles O7: the access is a register write, and `issue` decides by BUSY. -/
theorem cmdWriteIsAcceptedOrSetsOverrun : Obligations.CmdWriteIsAcceptedOrSetsOverrun := by
  intro s w rest hin
  have hstep : step s = .next (issue w { s with hostIn := rest }) := step_of_registerWrite hin (by decide) (by decide)
  refine ⟨fun hb => ?_, fun hb => ?_⟩
  · rw [hstep, issue_of_busy (s := { s with hostIn := rest }) hb]
    rfl
  · rw [hstep, issue_of_idle (s := { s with hostIn := rest }) hb]
    exact ⟨_, rfl, rfl, rfl, rfl, rfl, rfl⟩

theorem ErrCode.code_mem (c : ErrCode) : (c, c.code) ∈
    [(ErrCode.none, 0#4), (.transport, 1), (.timeout, 2), (.link, 3), (.empty, 4), (.config, 5), (.timerRange, 6),
      (.crc, 7), (.illegal, 8), (.pollLimit, 9)] := by
  cases c <;> decide

theorem Phase.code_mem (p : Phase) : (p, p.code) ∈
    [(Phase.idle, 0#3), (.armed, 1), (.streaming, 2), (.await, 3), (.drain, 4), (.success, 5), (.error, 6)] := by
  cases p <;> decide

/-- A bit of a word from the word's value. -/
theorem getLsbD_of_toNat {w : Word} {i : Nat} {b : Bool} (h : w.toNat / 2 ^ i % 2 = b.toNat) : w.getLsbD i = b := by
  rw [BitVec.getLsbD, Nat.testBit_eq_decide_div_mod_eq, h]
  cases b <;> rfl

section StatusWord

variable (st : Status)

/-- The flags of STATUS stand in bits [4:0]. -/
theorem Status.toWord_flags : st.toWord.getLsbD 0 = st.busy ∧ st.toWord.getLsbD 1 = st.done ∧
    st.toWord.getLsbD 2 = st.err ∧ st.toWord.getLsbD 3 = st.trunc ∧ st.toWord.getLsbD 4 = st.cmdOvr := by
  have := Bool.toNat_lt st.busy
  have := Bool.toNat_lt st.done
  have := Bool.toNat_lt st.err
  have := Bool.toNat_lt st.trunc
  have := Bool.toNat_lt st.cmdOvr
  refine ⟨getLsbD_of_toNat ?_, getLsbD_of_toNat ?_, getLsbD_of_toNat ?_, getLsbD_of_toNat ?_,
    getLsbD_of_toNat ?_⟩ <;>
    rw [Status.toWord_toNat] <;> omega

/-- The reserved bits of STATUS are 0. -/
theorem Status.toWord_reserved : st.toWord.extractLsb' 5 3 = 0 ∧ st.toWord.extractLsb' 15 17 = 0 := by
  have hp := st.phase.code.isLt
  have he := st.ecode.code.isLt
  have := Bool.toNat_lt st.busy
  have := Bool.toNat_lt st.done
  have := Bool.toNat_lt st.err
  have := Bool.toNat_lt st.trunc
  have := Bool.toNat_lt st.cmdOvr
  constructor <;> apply BitVec.eq_of_toNat_eq <;>
    simp only [BitVec.extractLsb'_toNat, Status.toWord_toNat, Nat.shiftRight_eq_div_pow, BitVec.ofNat_eq_ofNat,
      BitVec.toNat_ofNat] <;>
    omega

end StatusWord

/-- CTRL by its bits: three fields, and the rest 0. -/
theorem Ctrl.toWord_bits (c : Ctrl) : c.toWord.getLsbD 0 = c.crcAbort ∧ c.toWord.getLsbD 1 = c.surplusFlush ∧
    c.toWord.getLsbD 2 = c.irqEn ∧ c.toWord.extractLsb' 3 29 = 0 := by
  obtain ⟨a, b, d⟩ := c
  cases a <;> cases b <;> cases d <;> decide

/-- Settles O8: each offset is a register's, and STATUS and CTRL stand in their words as R25 and R32 place them. -/
theorem registerReadsReturnTheRegisters : Obligations.RegisterReadsReturnTheRegisters := by
  intro s rest o hin
  refine ⟨?_, ?_, ?_, ?_, ?_, ?_, ?_⟩ <;> rintro rfl
  · exact step_of_registerRead hin (by decide) (by decide)
  · obtain ⟨hbusy, hdone, herr, htrunc, hovr⟩ := s.status.toWord_flags
    obtain ⟨hlow, hhigh⟩ := s.status.toWord_reserved
    refine ⟨s.status.toWord, step_of_registerRead hin (by decide) (by decide), hbusy, hdone, herr, htrunc, hovr, hlow,
      ?_, ?_, hhigh⟩
    · rw [Status.toWord_ecode]
      exact s.status.ecode.code_mem
    · rw [Status.toWord_phase]
      exact s.status.phase.code_mem
  · exact ⟨s.ctrl.toWord, step_of_registerRead hin (by decide) (by decide), s.ctrl.toWord_bits⟩
  · exact step_of_registerRead hin (by decide) (by decide)
  · exact step_of_registerRead hin (by decide) (by decide)
  · exact step_of_registerRead hin (by decide) (by decide)
  · exact step_of_registerRead hin (by decide) (by decide)

/-- W1C by cases of the written bit: clearing where it is set. -/
theorem Status.acknowledge_eq (v : Word) (st : Status) : st.acknowledge v = { st with
    done := if v.getLsbD 1 then false else st.done
    err := if v.getLsbD 2 then false else st.err
    cmdOvr := if v.getLsbD 4 then false else st.cmdOvr } := by
  have clear (b f : Bool) : (f && !b) = if b then false else f := by cases b <;> simp
  simp only [Status.acknowledge, clear]

/-- Settles O9: a STATUS write is `Status.acknowledge`, and a read has no side effect. -/
theorem statusWriteClearsOnlyWhatItNames : Obligations.StatusWriteClearsOnlyWhatItNames := by
  refine ⟨fun s v rest hin => ?_, fun s rest hin => ⟨_, step_of_registerRead hin (by decide) (by decide)⟩⟩
  rw [step_of_registerWrite hin (by decide) (by decide), ← Status.acknowledge_eq]
  rfl

/-- Settles O10: CTRL and ARG0..2 by `writeRegister`, the rest by the region the offset lies in. -/
theorem registerWritesTakeEffectOrAreIgnored : Obligations.RegisterWritesTakeEffectOrAreIgnored := by
  intro s o size v rest hin
  refine ⟨?_, ?_, ?_, ?_, ?_, fun hge hout hal => ?_⟩
  · rintro rfl rfl
    exact step_of_registerWrite hin (by decide) (by decide)
  · rintro rfl rfl
    exact step_of_registerWrite hin (by decide) (by decide)
  · rintro rfl rfl
    exact step_of_registerWrite hin (by decide) (by decide)
  · rintro rfl rfl
    exact step_of_registerWrite hin (by decide) (by decide)
  · rintro rfl rfl
    exact step_of_registerWrite hin (by decide) (by decide)
  · rw [step_of_write hin, hostWrite_of_ignored hge hout hal]

/-! ## The buffers -/

section Buffer

variable {s : State} {size : AccessSize}

/-- The bytes a write to TXBUF stores stand at their offsets. -/
theorem bufByte_writeBytes_inside (a : Nat) (bs : List Byte) {i : Nat} (hi : i < bs.length) :
    State.bufByte { s with mem := s.mem.writeBytes a bs } (a + i) = bs[i] := by
  simp [State.bufByte, Memory.read_writeBytes_inside _ _ _ hi]

theorem bufByte_writeBytes_outside (a : Nat) (bs : List Byte) {b : Nat} (hb : b < a ∨ a + bs.length ≤ b) :
    State.bufByte { s with mem := s.mem.writeBytes a bs } b = s.bufByte b := by
  simp [State.bufByte, Memory.read_writeBytes_outside _ _ _ hb]

/-- HOST reads back at TXBUF the word whose bytes stand there. -/
theorem hostReadData_of_txBytes {offset : BitVec 12} {v : Word} (htx : inTxBuf offset.toNat = true)
    (hal : offset.toNat % size.bytes = 0)
    (hbytes : ∀ i, i < size.bytes → s.bufByte (offset.toNat + i) = v.extractLsb' (8 * i) 8) :
    hostReadData offset size s = (v.setWidth (8 * size.bytes)).setWidth 32 := by
  have hread : ((List.range size.bytes).map fun i => hostByte s (offset.toNat + i)) = leBytes v size.bytes := by
    refine List.map_congr_left fun i hi => ?_
    have hi : i < size.bytes := List.mem_range.1 hi
    rw [hostByte_of_settled (.inl (inTxBuf_not_inRxBuf (inTxBuf_of_aligned htx hal hi))), hbytes i hi]
  rw [hostReadData_of_buffer (.inl htx), hread, leWord_leBytes v size.bytes_le]

/-- Settles O12: the write stores `leBytes`, and the read puts them together again. -/
theorem txbufWriteReadsBackLittleEndian : Obligations.TxbufWriteReadsBackLittleEndian := by
  intro s o size v hlo hhi hal hb
  have htx : inTxBuf o.toNat = true := inTxBuf_iff.2 ⟨hlo, hhi⟩
  have hin : ∀ i, i < size.bytes →
      State.bufByte { s with mem := s.mem.writeBytes o.toNat (leBytes v size.bytes) } (o.toNat + i) =
        v.extractLsb' (8 * i) 8 := by
    intro i hi
    rw [bufByte_writeBytes_inside _ _ (by simpa using hi), leBytes_getElem v hi]
  refine ⟨s.mem.writeBytes o.toNat (leBytes v size.bytes), ?_, hin, fun a ha => ?_, ?_⟩
  · rw [hostWrite, if_pos (accessAllowed_of_beyond hal (by omega)), hostRegion_of_txbuf htx]
    simp [hb]
  · exact bufByte_writeBytes_outside _ _ (by simpa using ha)
  · exact hostReadData_of_txBytes htx hal hin

/-- A byte of an aligned read from TXBUF on is the one stored, where the read starts in TXBUF or RXBUF is settled. -/
theorem hostByte_of_aligned {a i : Nat} (hlo : 0x100 ≤ a) (hal : a % size.bytes = 0)
    (hset : a < 0x200 ∨ rxUnsettled s = false) (hi : i < size.bytes) :
    hostByte s (a + i) = s.bufByte (a + i) := by
  obtain htx | hset := hset
  · exact hostByte_of_settled
      (.inl (inTxBuf_not_inRxBuf (inTxBuf_of_aligned (inTxBuf_iff.2 ⟨hlo, htx⟩) hal hi)))
  · exact hostByte_of_settled (.inr hset)

/-- Settles O60: a reserved offset reads 0, and a buffer's bytes are the bytes of the word `leWord` builds. -/
theorem bufferReadsReturnTheStoredBytes : Obligations.BufferReadsReturnTheStoredBytes := by
  intro s o size rest hin hal
  refine ⟨fun hge hout => ?_, fun hlo hhi hset => ?_⟩
  · rw [step_of_read hin, hostRead_of_reserved hge hout hal]
  · have hset : o.toNat < 0x200 ∨ rxUnsettled s = false := hset.imp_right rxUnsettled_eq_false
    have hbuf : inTxBuf o.toNat = true ∨ inRxBuf o.toNat = true := by
      rw [inTxBuf_iff, inRxBuf_iff]
      omega
    let bytes := (List.range size.bytes).map fun i => hostByte s (o.toNat + i)
    have hlen : bytes.length = size.bytes := by simp [bytes]
    have hle : bytes.length ≤ 4 := hlen ▸ size.bytes_le
    have hdata : hostReadData o size { s with hostIn := rest } = leWord bytes := hostReadData_of_buffer hbuf
    refine ⟨leWord bytes, ?_, fun i hi => ?_, ?_⟩
    · rw [step_of_read hin, hostRead, if_pos (accessAllowed_of_beyond hal (by omega)), hdata]
    · rw [leWord_byte bytes hle (hlen.symm ▸ hi)]
      simp only [bytes, List.getElem_map, List.getElem_range]
      exact hostByte_of_aligned hlo hal hset hi
    · rw [← hlen]
      exact leWord_toNat_lt bytes hle

end Buffer

/-! ## Block reset -/

/-- Settles O13: `blockReset` at any moment, and the reset state itself. -/
theorem blockResetLeavesTheResetValues : Obligations.BlockResetLeavesTheResetValues := by
  have hstatus : Status.reset.toWord = 0 := by decide
  have hctrl : Ctrl.reset.toWord = 0 := by decide
  refine ⟨fun s rest hin => ⟨_, step_of_reset hin, ?_⟩, ?_⟩
  · exact ⟨rfl, hstatus, hctrl, rfl, rfl, rfl, rfl, rfl, fun _ => rfl, rfl, rfl, rfl⟩
  · exact ⟨rfl, hstatus, hctrl, rfl, rfl, rfl, rfl, rfl, fun _ => rfl⟩

/-! ## The parameters -/

theorem seqStep_cfg {s t : State} (h : seqStep s = .next t) : t.cfg = s.cfg := by
  cases hb : s.status.busy with
  | false =>
    rw [seqStep_of_idle hb] at h
    cases h
    rfl
  | true =>
    cases hd : decode s.seq.lcmd with
    | error e =>
      rw [seqStep_of_illegal hb hd] at h
      cases h
      rfl
    | ok i =>
      rw [seqStep_of_decode hb hd] at h
      obtain ⟨hcfg, _⟩ := commandStepsKeepTheHostSide i s t h
      exact hcfg

theorem issue_cfg (w : Word) (s : State) : (issue w s).cfg = s.cfg := by
  unfold issue
  split <;> rfl

theorem writeRegister_cfg (offset : BitVec 12) (w : Word) (s : State) : (writeRegister offset w s).cfg = s.cfg := by
  unfold writeRegister
  split
  · exact issue_cfg w s
  all_goals rfl

theorem hostRead_cfg {s t : State} {offset : BitVec 12} {size : AccessSize}
    (h : hostRead offset size s = .next t) : t.cfg = s.cfg := by
  unfold hostRead at h
  split at h
  · cases h
    rfl
  · cases h

theorem hostWrite_cfg {s t : State} {offset : BitVec 12} {size : AccessSize} {data : Word}
    (h : hostWrite offset size data s = .next t) : t.cfg = s.cfg := by
  unfold hostWrite at h
  split at h
  · split at h
    · cases h
      exact writeRegister_cfg offset data s
    · cases h
      rfl
    · cases h
      rfl
    · split at h
      · cases h
      · cases h
        rfl
  · cases h

/-- Settles O19, by who moves: SEQ keeps the host's side, and no host access or reset writes `cfg`. -/
theorem noStepChangesTheParameters : Obligations.NoStepChangesTheParameters := by
  intro s t h
  unfold step at h
  split at h
  · exact seqStep_cfg h
  next rest _ => exact seqStep_cfg (s := { s with hostIn := rest }) h
  next rest _ => exact hostRead_cfg (s := { s with hostIn := rest }) h
  next rest _ => exact hostWrite_cfg (s := { s with hostIn := rest }) h
  next rest _ =>
    cases h
    rfl

end Sys2Proof.Machine
end

section
/-! The transport port under failure, the poll loop's way to the drain, and which accesses of the host bus answer. -/

namespace Sys2Proof.Machine

open Sys2Proof.Safety

/-! ## A failed transaction (20_memory.md R66, 60_exceptions.md R312) -/

/-- From `s` to `t` the command ended with TRANSPORT; what PHASE and RESULT show then is said beside it. -/
def EndedWithTransport (s t : State) : Prop :=
  t.status = { s.status with
    busy := false, done := true, err := true, trunc := false, ecode := .transport, phase := t.status.phase }

theorem endWithError_endedWithTransport (b : Bool) (r : Word) {s u : State} (hst : u.status = s.status) :
    EndedWithTransport s (endWithError b .transport r u) := by
  rw [endWithError_spec, EndedWithTransport, hst]
  rfl

section Failed

variable {slot : Byte} {s t : State}

/-- A step that leaves `txns` where it was issued no transaction. -/
theorem txns_ne_succ (s : State) : s.txns ≠ s.txns + 1 := (Nat.succ_ne_self _).symm

theorem ListingOutcome.endedWithTransport (h : ListingOutcome slot s t) (hf : s.nextAnswer = .fail)
    (htx : t.txns = s.txns + 1) : EndedWithTransport s t := by
  cases h with
  | ended r => exact absurd htx (txns_ne_succ s)
  | raised c r hc => exact absurd htx (txns_ne_succ s)
  | held us j q hsp hq => exact absurd htx (txns_ne_succ s)
  | failed ev r hev _ => exact endWithError_endedWithTransport false r rfl
  | went ev j q hev hok hsp hq => exact absurd hf hok

/-- TRANSCEIVE reports RESULT 0 with every error. -/
theorem TransceiveOutcome.endedWithTransport (h : TransceiveOutcome slot s t) (hf : s.nextAnswer = .fail)
    (htx : t.txns = s.txns + 1) : EndedWithTransport s t ∧ t.result = 0 := by
  cases h with
  | storedAndSucceeded hs => exact absurd htx (txns_ne_succ s)
  | succeeded hs hsp => exact absurd htx (txns_ne_succ s)
  | raised c hc hi => exact absurd htx (txns_ne_succ s)
  | failed ev hev _ => exact ⟨endWithError_endedWithTransport true 0 rfl, rfl⟩
  | storedAndFailed ev hev _ => exact ⟨endWithError_endedWithTransport true 0 rfl, rfl⟩
  | yielded us q hs hsp hq => exact absurd htx (txns_ne_succ s)
  | went ev q hev hok hsp hd hq => exact absurd hf hok
  | entered ev q hev hok hp hq => exact absurd hf hok
  | stored ev q hev hok hs hsp hq => exact absurd hf hok

end Failed

/-! ### RESULT after it -/

theorem all_failsWithZero_setSpeedOps (rm : RegMap) (p : Profile) :
    (setSpeedOps rm p).all SeqOp.failsWithZero = true := by
  unfold setSpeedOps
  split <;> rfl

theorem all_failsWithZero_setRfModeOps (rm : RegMap) (m : Word) :
    (setRfModeOps rm m).all SeqOp.failsWithZero = true := by
  unfold setRfModeOps
  split <;> rfl

/-- Holding the timer pair uses up no answer, so the arming writes fail or succeed as they would without it. -/
theorem armStep_fail_result {slot : Byte} {s : State} (hf : s.nextAnswer = .fail)
    (htx : (armStep slot s).txns = s.txns + 1) : (armStep slot s).result = 0 :=
  runListing_fail_result rfl hf rfl htx

/-- A failed transaction of a command that runs no table leaves RESULT 0: no step of its listing reports another. -/
theorem exec_fail_result {i : Instr} {s t : State} (hi : ∀ slot x, i ≠ .transceive slot x)
    (htable : ∀ slot, i ≠ .applyTable slot ∧ i ≠ .applyDefaults slot) (hf : s.nextAnswer = .fail)
    (h : exec i s = .next t) (htx : t.txns = s.txns + 1) : t.result = 0 := by
  cases i with
  | transceive slot x => exact absurd rfl (hi slot x)
  | applyTable slot => exact absurd rfl (htable slot).1
  | applyDefaults slot => exact absurd rfl (htable slot).2
  | resetInit slot => cases h; exact runListing_fail_result rfl hf rfl htx
  | setRfMode slot => cases h; exact runListing_fail_result (all_failsWithZero_setRfModeOps _ _) hf rfl htx
  | setRfPower slot x => cases h; exact runListing_fail_result rfl hf rfl htx
  | getError slot => cases h; exact runListing_fail_result rfl hf rfl htx
  | getCollPos slot => cases h; exact runListing_fail_result rfl hf rfl htx
  | clearBits slot => cases h; exact runListing_fail_result rfl hf rfl htx
  | setBits slot => cases h; exact runListing_fail_result rfl hf rfl htx
  | setMasked slot => cases h; exact runListing_fail_result rfl hf rfl htx
  | getSpeeds slot => cases h; exact absurd htx (txns_ne_succ s)
  | getCarrier slot => cases h; exact absurd htx (txns_ne_succ s)
  | getMaxFrame slot => cases h; exact absurd htx (txns_ne_succ s)
  | setSpeed slot rate =>
    simp only [exec, execSetSpeed] at h
    split at h <;> cases h
    · rfl
    · exact runListing_fail_result (all_failsWithZero_setSpeedOps _ _) hf rfl htx
  | deriveTimer slot =>
    simp only [exec, execDeriveTimer] at h
    split at h <;> cases h
    · rfl
    · exact absurd htx (txns_ne_succ s)
  | armTimer slot =>
    simp only [exec, execArmTimer] at h
    split at h
    · split at h <;> cases h
      · rfl
      · exact armStep_fail_result (s := holdPair _ _ s) hf htx
    · cases h
      exact armStep_fail_result hf htx

/-- Settles O26: of the ways a step can go only the failed transaction is left, and `exec_fail_result` gives its
RESULT. -/
theorem failedTransactionEndsTheCommand : Obligations.FailedTransactionEndsTheCommand := by
  intro i s t hf h htx
  obtain ⟨hi, hl⟩ | ⟨_, ht⟩ := exec_outcome h
  · exact ⟨hl.endedWithTransport hf htx, fun htable => exec_fail_result hi htable hf h htx⟩
  · obtain ⟨hend, hresult⟩ := ht.endedWithTransport hf htx
    exact ⟨hend, fun _ => hresult⟩

/-! ## The poll loop up to the drain (42_transceive.md R177, R178) -/

section Polls

variable {slot v : Byte} {s t : State} {rest : List Answer}

theorem pollCommand_of_ok (h : s.envIn = .ok [v] :: rest) :
    pollCommand slot s = advanced (.regRead slot s.cfg.regs.command (some v))
      { s.seq with c := v, sp := .pollStatus } s.status.phase s :=
  regRead_of_ok h

/-- Event (a), completion: COMMAND reads 0x00. -/
theorem pollStatus_of_completed {b : List Byte} (hc : s.seq.c = 0x00) (h : s.envIn = .ok b :: rest) :
    pollStatus slot s = advanced (.regWrite slot s.cfg.regs.interruptRq s.cfg.regs.irqRx true)
      { s.seq with sp := .drainLength } s.status.phase s := by
  rw [pollStatus, if_pos hc, regWrite_of_ok h]
  rfl

theorem pollStatus_of_running (hc : s.seq.c ≠ 0x00) (h : s.envIn = .ok [v] :: rest) :
    pollStatus slot s = advanced (.regRead slot s.cfg.regs.primaryStatus (some v))
      { s.seq with s := v, sp := .pollFlags } s.status.phase s := by
  rw [pollStatus, if_neg hc, regRead_of_ok h]
  rfl

theorem advanced_keeps (ev : PortEvent) (q : Seq) (h : s.envIn = .ok [v] :: rest) :
    (advanced ev q s.status.phase s).status = s.status ∧ (advanced ev q s.status.phase s).envIn = rest ∧
      KeepsHostSide s (advanced ev q s.status.phase s) ∧ KeepsMemory s (advanced ev q s.status.phase s) :=
  ⟨rfl, congrArg List.tail h, advanced_keepsHostSide _ _ _ s, advanced_keepsMemory _ _ _ s⟩

/-- A step of AWAIT that is not the completion's stays before the drain, or ends the command with an error: of the ways
a step can go, those that leave AWAIT start at another state of the exchange or at the drain's first step. -/
theorem TransceiveOutcome.staysInAwait (h : TransceiveOutcome slot s t) (hph : s.status.phase = .await)
    (hat : phaseAt s.seq.sp = .await) (hdrain : s.seq.sp ≠ .drainLength)
    (hc : ¬ (s.seq.sp = .pollStatus ∧ s.seq.c = 0x00)) :
    (t.status.phase = .await ∧ phaseAt t.seq.sp = .await ∧ t.seq.sp ≠ .drainLength) ∨
      (t.status.busy = false ∧ t.status.err = true) := by
  have hflush : s.seq.sp ≠ .drainFlush := by
    intro hs
    rw [hs] at hat
    cases hat
  cases h with
  | storedAndSucceeded hs => exact absurd hs hflush
  | succeeded hs hsp => simp [hat] at hs
  | raised c hcode hi => exact .inr ⟨rfl, rfl⟩
  | failed ev hev hf => exact .inr ⟨rfl, rfl⟩
  | storedAndFailed ev hev hf => exact .inr ⟨rfl, rfl⟩
  | yielded us q hs hsp hq => exact .inl ⟨hph, by simp [hsp, phaseAt], by simp [hsp]⟩
  | went ev q hev hf hsp hd hq => exact .inl ⟨hph, hsp.trans hat, fun h => hc (hd h)⟩
  | entered ev q hev hf hp hq =>
    obtain ⟨hs, _⟩ | ⟨hs, _⟩ | ⟨hs, _⟩ := hp
    · simp [hat] at hs
    · simp [hat] at hs
    · exact absurd hs hdrain
  | stored ev q hev hf hs hsp hq => exact absurd hs hflush

end Polls

/-- Settles O51: the read of COMMAND, its test, and every other step of AWAIT by `TransceiveOutcome`. -/
theorem completionOnlyWhenCommandReadsZero : Obligations.CompletionOnlyWhenCommandReadsZero := by
  refine ⟨fun slot x s v rest hsp hin => ?_, fun slot x s v rest hsp hin => ⟨fun hc => ?_, fun hc => ?_⟩,
    fun slot x s t hph hat hdrain h hc => ?_⟩
  · have hstep := (transceiveStep_pollCommand hsp).trans (pollCommand_of_ok (slot := slot) hin)
    exact ⟨_, exec_of_step hstep, rfl, rfl, rfl, advanced_keeps _ _ hin⟩
  · have hstep := (transceiveStep_pollStatus hsp).trans (pollStatus_of_completed (slot := slot) hc hin)
    exact ⟨_, exec_of_step hstep, rfl, rfl, advanced_keeps _ _ hin⟩
  · have hstep := (transceiveStep_pollStatus hsp).trans (pollStatus_of_running (slot := slot) hc hin)
    exact ⟨_, exec_of_step hstep, rfl, rfl, rfl, advanced_keeps _ _ hin⟩
  · cases h
    exact (transceiveStep_outcome slot s).staysInAwait hph hat hdrain hc

/-! ## The legal accesses of the host bus (20_memory.md R70, 70_reset_and_hazards.md R362) -/

section Legal

variable {s : State} {offset : BitVec 12} {size : AccessSize} {data : Word}

theorem hostRegion_eq_register_iff : hostRegion offset = .reg ↔ offset.toNat < 0x01C :=
  ⟨fun h => Nat.lt_of_not_le fun hge => hostRegion_ne_register hge h, hostRegion_of_register⟩

/-- R70: naturally aligned, and four bytes wide at a register. -/
theorem accessAllowed_iff : accessAllowed offset size = true ↔
    offset.toNat % size.bytes = 0 ∧ (offset.toNat < 0x01C → size = .four) := by
  rw [← hostRegion_eq_register_iff]
  simp [accessAllowed, Decidable.imp_iff_not_or]

theorem hostRead_of_refused (h : accessAllowed offset size ≠ true) : hostRead offset size s = .refused .hostAccess :=
  if_neg h

theorem hostWrite_of_refused (h : accessAllowed offset size ≠ true) :
    hostWrite offset size data s = .refused .hostAccess := if_neg h

theorem hostRead_of_allowed (h : accessAllowed offset size = true) :
    hostRead offset size s = .next { s with busOut := hostReadData offset size s :: s.busOut } := if_pos h

/-- A legal write to TXBUF races with a running SEQ, and else stores its bytes. -/
theorem hostWrite_of_txbuf (h : accessAllowed offset size = true) (htx : inTxBuf offset.toNat = true) :
    hostWrite offset size data s =
      if s.status.busy then .fault .txbufRace
      else .next { s with mem := s.mem.writeBytes offset.toNat (leBytes data size.bytes) } := by
  rw [hostWrite, if_pos h, hostRegion_of_txbuf htx]

theorem hostWrite_answers (hal : offset.toNat % size.bytes = 0) (hfour : offset.toNat < 0x01C → size = .four)
    (hfree : offset.toNat < 0x100 ∨ 0x200 ≤ offset.toNat ∨ s.status.busy = false) :
    ∃ t, hostWrite offset size data s = .next t := by
  by_cases hreg : offset.toNat < 0x01C
  · obtain rfl := hfour hreg
    exact ⟨_, hostWrite_of_register hreg hal⟩
  · by_cases htx : inTxBuf offset.toNat = true
    · have hrange := inTxBuf_iff.1 htx
      have hidle : s.status.busy = false := (hfree.resolve_left (by omega)).resolve_left (by omega)
      rw [hostWrite_of_txbuf (accessAllowed_iff.2 ⟨hal, hfour⟩) htx, hidle]
      exact ⟨_, rfl⟩
    · rw [inTxBuf_iff] at htx
      exact ⟨_, hostWrite_of_ignored (by omega) (by omega) hal⟩

end Legal

/-- Settles O11: `accessAllowed` decides between refusal and an answer, and a legal write to TXBUF is the one that can
race. -/
theorem hostBusAnswersExactlyTheLegalAccesses : Obligations.HostBusAnswersExactlyTheLegalAccesses := by
  intro s o size v
  refine ⟨fun hbad => ?_, fun hal hfour => ⟨⟨_, hostRead_of_allowed (accessAllowed_iff.2 ⟨hal, hfour⟩)⟩,
    fun hlo hhi hbusy => ?_, hostWrite_answers hal hfour⟩⟩
  · have hno : accessAllowed o size ≠ true := by
      rw [ne_eq, accessAllowed_iff]
      rintro ⟨hal, hfour⟩
      obtain hmis | ⟨hreg, hsize⟩ := hbad
      · exact hmis hal
      · exact hsize (hfour hreg)
    exact ⟨hostRead_of_refused hno, hostWrite_of_refused hno⟩
  · rw [hostWrite_of_txbuf (accessAllowed_iff.2 ⟨hal, hfour⟩) (inTxBuf_iff.2 ⟨hlo, hhi⟩), if_pos hbusy]

end Sys2Proof.Machine
end

section
/-! The encoding: decode and encode are inverse, decode agrees with the mask and match of every opcode row, and what a
rejected word does (30_encoding.md R102, R103, R111, R112). -/

namespace Sys2Proof

open Sys2Proof.Safety

/-! ## The word of a command -/

theorem packWord_and (r i s o r' i' s' o' : Byte) :
    packWord r i s o &&& packWord r' i' s' o' = packWord (r &&& r') (i &&& i') (s &&& s') (o &&& o') :=
  (BitVec.and_append (x₁ := r ++ i ++ s) (x₂ := r' ++ i' ++ s')).trans (by
    rw [BitVec.and_append, BitVec.and_append]
    rfl)

@[simp] theorem Byte.and_ff (x : Byte) : x &&& 255#8 = x := BitVec.and_allOnes

/-- A word is put together from four fields exactly when they are its fields. -/
theorem eq_packWord_iff {w : Word} {r i s o : Byte} :
    w = packWord r i s o ↔ rsvOf w = r ∧ immOf w = i ∧ slotOf w = s ∧ opcOf w = o := by
  constructor
  · rintro rfl
    exact ⟨rsvOf_packWord r i s o, immOf_packWord r i s o, slotOf_packWord r i s o, opcOf_packWord r i s o⟩
  · rintro ⟨rfl, rfl, rfl, rfl⟩
    exact (packWord_fields w).symm

theorem packWord_inj {r i s o r' i' s' o' : Byte} :
    packWord r i s o = packWord r' i' s' o' ↔ r = r' ∧ i = i' ∧ s = s' ∧ o = o' := by
  rw [eq_packWord_iff, rsvOf_packWord, immOf_packWord, slotOf_packWord, opcOf_packWord]

theorem decode_packWord (imm slot opc : Byte) : decode (packWord 0 imm slot opc) = decodeOpc opc slot imm := by
  simp [decode, rsvOf_packWord, opcOf_packWord, slotOf_packWord, immOf_packWord]

/-- What decode accepts has RSV 0, and its other fields pass the opcode map (R103). -/
theorem decode_eq_ok_iff {w : Word} {i : Instr} :
    decode w = .ok i ↔ rsvOf w = 0 ∧ decodeOpc (opcOf w) (slotOf w) (immOf w) = .ok i := by
  unfold decode
  split <;> simp_all

/-! ## The opcode map -/

theorem noImm_eq_ok_iff {imm : Byte} {i j : Instr} : noImm imm i = .ok j ↔ imm = 0 ∧ i = j := by
  unfold noImm
  split <;> simp_all

theorem flagImm_eq_ok_iff {imm : Byte} {i j : Instr} : flagImm imm i = .ok j ↔ flagImmOk imm = true ∧ i = j := by
  unfold flagImm
  split <;> simp_all

/-- The opcode map takes the fields of a well-formed command to it. -/
theorem decodeOpc_fields {i : Instr} (h : i.WellFormed = true) : decodeOpc i.opc i.slot i.imm8 = .ok i := by
  cases i with
  | setRfPower slot imm8 => exact flagImm_eq_ok_iff.2 ⟨h, rfl⟩
  | transceive slot imm8 => exact flagImm_eq_ok_iff.2 ⟨h, rfl⟩
  | _ => rfl

/-- What the opcode map accepts are the fields of a well-formed command. -/
theorem fields_of_decodeOpc {opc slot imm : Byte} {i : Instr} (h : decodeOpc opc slot imm = .ok i) :
    i.WellFormed = true ∧ imm = i.imm8 ∧ slot = i.slot ∧ opc = i.opc := by
  unfold decodeOpc at h
  split at h
  case h_3 hopc =>
    cases h
    exact ⟨rfl, rfl, rfl, BitVec.eq_of_toNat_eq hopc⟩
  case h_5 hopc | h_6 hopc =>
    obtain ⟨hflag, rfl⟩ := flagImm_eq_ok_iff.1 h
    exact ⟨hflag, rfl, rfl, BitVec.eq_of_toNat_eq hopc⟩
  case h_18 => cases h
  all_goals
    rename_i hopc
    obtain ⟨himm, rfl⟩ := noImm_eq_ok_iff.1 h
    exact ⟨rfl, himm, rfl, BitVec.eq_of_toNat_eq hopc⟩

/-! ## decode and encode -/

/-- Settles O1: decode reads the four packed fields back, and the opcode map takes them to the command. -/
theorem decodeOfEncodeGivesTheCommand : Obligations.DecodeOfEncodeGivesTheCommand := by
  intro i h
  rw [encode, decode_packWord]
  exact decodeOpc_fields h

/-- Settles O2: an accepted word has RSV 0 and the fields of a well-formed command, so it is their packing. -/
theorem encodeOfDecodeGivesTheWord : Obligations.EncodeOfDecodeGivesTheWord := by
  intro w i h
  obtain ⟨hrsv, hopc⟩ := decode_eq_ok_iff.1 h
  obtain ⟨hwf, hfields⟩ := fields_of_decodeOpc hopc
  exact ⟨hwf, (eq_packWord_iff.2 ⟨hrsv, hfields⟩).symm⟩

/-- The words that decode as a command: its own word, where it is well formed. -/
theorem decode_eq_ok_iff_encode {w : Word} {i : Instr} : decode w = .ok i ↔ i.WellFormed = true ∧ encode i = w := by
  refine ⟨encodeOfDecodeGivesTheWord w i, ?_⟩
  rintro ⟨hwf, rfl⟩
  exact decodeOfEncodeGivesTheCommand i hwf

/-! ## The mask table -/

/-- The part of IMM8 that a row of R111 compares, by the command's IMM8-use: all of it (none), all but bit 0 (flag),
nothing (index). -/
def immMask : Instr → Byte
  | .setSpeed _ _ => 0x00
  | .setRfPower _ _ | .transceive _ _ => 0xFE
  | _ => 0xFF

/-- A command's row of the mask table (R111). -/
def maskRow (i : Instr) : Word × Word :=
  (packWord 0xFF (immMask i) 0 0xFF, packWord 0 0 0 i.opc)

/-- The 17 commands in the order of the opcode map, with the SLOT and the IMM8 given. -/
def commandsWith (slot imm : Byte) : List Instr :=
  [.resetInit slot, .applyDefaults slot, .setSpeed slot imm, .setRfMode slot, .setRfPower slot imm,
   .transceive slot imm, .getError slot, .getCollPos slot, .getSpeeds slot, .getCarrier slot, .getMaxFrame slot,
   .clearBits slot, .setBits slot, .setMasked slot, .applyTable slot, .deriveTimer slot, .armTimer slot]

theorem map_maskRow_commandsWith (slot imm : Byte) : (commandsWith slot imm).map maskRow = maskRows := by
  simp only [commandsWith, List.map_cons, List.map_nil, maskRow, immMask, Instr.opc]
  decide

theorem mem_commandsWith (i : Instr) : i ∈ commandsWith i.slot i.imm8 := by
  cases i <;> simp [commandsWith, Instr.slot, Instr.imm8]

/-- The masked comparison of IMM8 is the check of R103 with the IMM8 that the command holds. -/
theorem immMask_match_iff {slot imm : Byte} {i : Instr} (hi : i ∈ commandsWith slot imm) :
    imm &&& immMask i = 0 ↔ i.WellFormed = true ∧ imm = i.imm8 := by
  have hnone : imm &&& 0xFF = 0 ↔ true = true ∧ imm = 0 := by simp
  have hflag : ∀ x : Byte, x &&& 254#8 = 0#8 ↔ flagImmOk x = true := by decide
  cases i with
  | setSpeed s x =>
    obtain ⟨rfl, rfl⟩ : s = slot ∧ x = imm := by simpa [commandsWith] using hi
    simp [immMask, Instr.WellFormed, Instr.imm8]
  | setRfPower s x =>
    obtain ⟨rfl, rfl⟩ : s = slot ∧ x = imm := by simpa [commandsWith] using hi
    simp [immMask, Instr.WellFormed, Instr.imm8, hflag]
  | transceive s x =>
    obtain ⟨rfl, rfl⟩ : s = slot ∧ x = imm := by simpa [commandsWith] using hi
    simp [immMask, Instr.WellFormed, Instr.imm8, hflag]
  | _ => exact hnone

theorem slot_of_mem_commandsWith {slot imm : Byte} {i : Instr} (hi : i ∈ commandsWith slot imm) : i.slot = slot := by
  have hall : ∀ j ∈ commandsWith slot imm, j.slot = slot := by simp [commandsWith, Instr.slot]
  exact hall i hi

/-- A masked word shows RSV, OPC and the compared part of IMM8; SLOT is in no mask. -/
theorem and_maskRow_eq_iff {w : Word} {i : Instr} :
    w &&& (maskRow i).1 = (maskRow i).2 ↔ rsvOf w = 0 ∧ immOf w &&& immMask i = 0 ∧ opcOf w = i.opc := by
  conv_lhs => rw [← packWord_fields w]
  simp [maskRow, packWord_and, packWord_inj]

/-- The row of each command, with the SLOT and the IMM8 of the word (R111). -/
theorem decode_eq_ok_iff_maskRow {w : Word} {i : Instr} (hi : i ∈ commandsWith (slotOf w) (immOf w)) :
    decode w = .ok i ↔ w &&& (maskRow i).1 = (maskRow i).2 := by
  rw [decode_eq_ok_iff_encode, and_maskRow_eq_iff, immMask_match_iff hi, eq_comm (a := encode i), encode,
    eq_packWord_iff, slot_of_mem_commandsWith hi]
  tauto

/-- A word decode accepts is one of the 17 commands with the word's own SLOT and IMM8. -/
theorem mem_commandsWith_of_decode {w : Word} {i : Instr} (h : decode w = .ok i) :
    i ∈ commandsWith (slotOf w) (immOf w) := by
  obtain ⟨_, himm, hslot, _⟩ := fields_of_decodeOpc (decode_eq_ok_iff.1 h).2
  rw [himm, hslot]
  exact mem_commandsWith i

theorem exists_error_iff {w : Word} : (∃ e, decode w = .error e) ↔ ∀ i, decode w ≠ .ok i := by
  cases decode w <;> simp

/-- R112: decode rejects exactly the words that match no row. -/
theorem exists_error_iff_maskRows {w : Word} :
    (∃ e, decode w = .error e) ↔ ∀ row ∈ maskRows, w &&& row.1 ≠ row.2 := by
  rw [exists_error_iff, ← map_maskRow_commandsWith (slotOf w) (immOf w), List.forall_mem_map]
  constructor
  · intro h i hi hrow
    exact h i ((decode_eq_ok_iff_maskRow hi).2 hrow)
  · intro h i hok
    have hi := mem_commandsWith_of_decode hok
    exact h i hi ((decode_eq_ok_iff_maskRow hi).1 hok)

/-- Row by row: each command beside its row of the table. -/
theorem decode_eq_ok_iff_maskRows {w : Word} :
    ∀ p ∈ (commandsWith (slotOf w) (immOf w)).zip maskRows, decode w = .ok p.1 ↔ w &&& p.2.1 = p.2.2 := by
  rw [← map_maskRow_commandsWith (slotOf w) (immOf w), ← List.map_prod_left_eq_zip, List.forall_mem_map]
  exact fun i hi => decode_eq_ok_iff_maskRow hi

/-- Settles O3: the 17 rows are those of `decode_eq_ok_iff_maskRows`, written out. -/
theorem decodeMatchesTheMaskTable : Obligations.DecodeMatchesTheMaskTable := by
  intro w
  have rows := decode_eq_ok_iff_maskRows (w := w)
  simp only [commandsWith, maskRows, List.zip_cons_cons, List.zip_nil_left, List.forall_mem_cons] at rows
  obtain ⟨r1, r2, r3, r4, r5, r6, r7, r8, r9, r10, r11, r12, r13, r14, r15, r16, r17, -⟩ := rows
  exact ⟨r1, r2, r3, r4, r5, r6, r7, r8, r9, r10, r11, r12, r13, r14, r15, r16, r17, exists_error_iff_maskRows⟩

/-! ## Sample words -/

/-- Settles O4: the ten words are closed, so decode is evaluated on each. -/
theorem sampleWordsDecodeAsTheSpecSays : Obligations.SampleWordsDecodeAsTheSpecSays := by
  unfold Obligations.SampleWordsDecodeAsTheSpecSays
  decide

end Sys2Proof

namespace Sys2Proof.Machine

open Sys2Proof.Safety

/-! ## Rejected words -/

theorem raiseError_endedInError (code : ErrCode) (r : Word) (s : State) :
    EndedInError s (raiseError code r s) code r [] s.envIn :=
  ⟨rfl, rfl, rfl, rfl, raiseError_keepsHostSide code r s, fun _ => rfl⟩

/-- Settles O5: with BUSY = 1 a rejected LCMD makes SEQ's step `raiseIllegal`. -/
theorem illegalWordEndsWithIllegal : Obligations.IllegalWordEndsWithIllegal := by
  intro s e hnil hb hd
  have hstep : step s = seqStep s := by simp only [step, hnil]
  exact ⟨raiseIllegal s, by rw [hstep, seqStep_of_illegal hb hd], raiseError_endedInError .illegal 0 s, rfl⟩

end Sys2Proof.Machine
end

section
/-! Whole runs of the commands written as listings: the register procedures, SET_RF_POWER, SET_RF_MODE and APPLY_TABLE
(40_primitives.md R131 to R138, 43_link_config.md R226, 44_lifecycle.md R261). -/

namespace Sys2Proof.Machine

open Sys2Proof.Safety

/-! ## The latched operands along a run -/

theorem WentOn.larg0 {s t : State} {e : List PortEvent} {l : List Answer} (h : WentOn s t e l) :
    t.seq.larg0 = s.seq.larg0 := by
  obtain ⟨-, h0, -, -⟩ := h.latch
  exact h0

theorem WentOn.larg2 {s t : State} {e : List PortEvent} {l : List Answer} (h : WentOn s t e l) :
    t.seq.larg2 = s.seq.larg2 := by
  obtain ⟨-, -, -, h2⟩ := h.latch
  exact h2

/-! ## The start of a run -/

section Start

variable {c : Instr} {slot : Byte} {more : List SeqOp} {fin : State → State} {s : State} {left : List Answer}
  {fuel : Nat} {Q : State → Prop}

/-- A run of a listing that begins with a read: its first step, and the rest of it. -/
theorem RunsListing.startsWithRead {a v : Byte} {r : Word} (hl : RunsListing c slot (.read a r :: more) fin s)
    (hs : AtFirstStep s) (henv : s.envIn = .ok [v] :: left)
    (hrun : ∃ u, runOn c fuel (runOps slot fin (.read a r :: more) 0 s) = some u ∧ Q u) :
    ∃ t1 t, exec c s = .next t1 ∧ t1.trace = .regRead slot a (some v) :: s.trace ∧
      runToEnd c fuel t1 = some t ∧ Q t := by
  obtain ⟨hb, hsp⟩ := hs
  obtain ⟨u, hu, hq⟩ := hrun
  have hfirst : runOps slot fin (.read a r :: more) 0 s = holdV (.op 1) v (answered (.regRead slot a (some v)) s) :=
    regRead_of_ok henv
  obtain ⟨hexec, hend⟩ := hl.start hsp (by rw [hfirst]; exact hb) hu
  exact ⟨_, u, hexec, by rw [hfirst]; rfl, hend, hq⟩

/-- The same for a listing that begins with a whole write. -/
theorem RunsListing.startsWithWrite {a v : Byte} {b : List Byte} (hl : RunsListing c slot (.write a v :: more) fin s)
    (hs : AtFirstStep s) (henv : s.envIn = .ok b :: left)
    (hrun : ∃ u, runOn c fuel (runOps slot fin (.write a v :: more) 0 s) = some u ∧ Q u) :
    ∃ t1 t, exec c s = .next t1 ∧ t1.trace = .regWrite slot a v true :: s.trace ∧
      runToEnd c fuel t1 = some t ∧ Q t := by
  obtain ⟨hb, hsp⟩ := hs
  obtain ⟨u, hu, hq⟩ := hrun
  have hfirst : runOps slot fin (.write a v :: more) 0 s = goto (.op 1) (answered (.regWrite slot a v true) s) :=
    regWrite_of_ok henv
  obtain ⟨hexec, hend⟩ := hl.start hsp (by rw [hfirst]; exact hb) hu
  exact ⟨_, u, hexec, by rw [hfirst]; rfl, hend, hq⟩

/-- The end of a listing of one register procedure. -/
theorem runOn_end_of_update {t : State} {events : List PortEvent} {i : Nat} {r : Word}
    (ht : WentOn s t (events ++ []) left) :
    ∃ u, runOn c 0 (runOps slot (complete r) [] i t) = some u ∧ EndedOk s u r events left := by
  rw [List.append_nil] at ht
  exact runOn_end ht rfl

end Start

/-! ## The register procedures as commands -/

theorem clearBits_runsListing (slot : Byte) (s : State) :
    RunsListing (.clearBits slot) slot (clearBitsOps (bitsAddr s.seq.larg0) (bitsMask s.seq.larg0)) (complete 0) s := by
  refine .of_exec fun t _ _ ht => ?_
  rw [← ht.larg0]
  rfl

theorem setBits_runsListing (slot : Byte) (s : State) :
    RunsListing (.setBits slot) slot (setBitsOps (bitsAddr s.seq.larg0) (bitsMask s.seq.larg0)) (complete 0) s := by
  refine .of_exec fun t _ _ ht => ?_
  rw [← ht.larg0]
  rfl

theorem setMasked_runsListing (slot : Byte) (s : State) :
    RunsListing (.setMasked slot) slot
      (setMaskedOps (bitsAddr s.seq.larg0) (bitsMask s.seq.larg0) (bitsBits s.seq.larg0)) (complete 0) s := by
  refine .of_exec fun t _ _ ht => ?_
  rw [← ht.larg0]
  rfl

theorem setRfPower_runsListing (slot imm8 : Byte) (s : State) :
    RunsListing (.setRfPower slot imm8) slot (rfPowerOps s.cfg.regs (flagOf imm8)) (complete 0) s := by
  refine .of_exec fun t _ _ ht => ?_
  rw [← ht.cfg]
  rfl

/-- Settles O27: the listing is one clear_bits and the end. -/
theorem clearBitsReadsAndWritesOnlyWhenNeeded : Obligations.ClearBitsReadsAndWritesOnlyWhenNeeded := by
  intro slot s v w rest hs hw henv
  obtain rfl : w = clearedValue v (bitsMask s.seq.larg0) := hw
  have hl := clearBits_runsListing slot s
  exact hl.startsWithRead hs henv
    (hl.clearBits (i := 0) (more := []) hs.1 (.refl henv) rfl fun _ ht _ => runOn_end_of_update ht)

/-- Settles O28: the listing is one set_bits and the end. -/
theorem setBitsReadsAndWritesOnlyWhenNeeded : Obligations.SetBitsReadsAndWritesOnlyWhenNeeded := by
  intro slot s v w rest hs hw henv
  obtain rfl : w = setValue v (bitsMask s.seq.larg0) := hw
  have hl := setBits_runsListing slot s
  exact hl.startsWithRead hs henv
    (hl.setBits (i := 0) (more := []) hs.1 (.refl henv) rfl fun _ ht _ => runOn_end_of_update ht)

/-- Settles O29: the listing is one set_masked and the end. -/
theorem setMaskedReplacesTheField : Obligations.SetMaskedReplacesTheField := by
  rintro slot s v m b w rest hs rfl rfl hw henv
  obtain rfl : w = maskedValue v (bitsMask s.seq.larg0) (bitsBits s.seq.larg0) := hw
  have hl := setMasked_runsListing slot s
  exact hl.startsWithRead hs henv
    (hl.setMasked (i := 0) (more := []) hs.1 (.refl henv) rfl fun _ ht _ => runOn_end_of_update ht)

/-- Settles O43: the listing is one set_masked of the RF-enable bits and the end. -/
theorem setRfPowerSwitchesTheField : Obligations.SetRfPowerSwitchesTheField := by
  intro slot imm8 s v b w rest hs hb hw henv
  obtain rfl : b = if flagOf imm8 then s.cfg.regs.rfEn else 0 := hb
  obtain rfl : w = maskedValue v s.cfg.regs.rfEn (if flagOf imm8 then s.cfg.regs.rfEn else 0) := hw
  have hl := setRfPower_runsListing slot imm8 s
  exact hl.startsWithRead hs henv
    (hl.setMasked (i := 0) (more := []) hs.1 (.refl henv) rfl fun _ ht _ => runOn_end_of_update ht)

/-! ## SET_RF_MODE -/

theorem setRfMode_runsListing (slot : Byte) (s : State) :
    RunsListing (.setRfMode slot) slot (setRfModeOps s.cfg.regs s.seq.larg0) (complete 0) s := by
  refine .of_exec fun t _ _ ht => ?_
  rw [← ht.cfg, ← ht.larg0]
  rfl

/-- The value SET_RF_MODE writes over a CONTROL register that reads `v` (R226); none where it writes nothing. -/
def crypto1Value (rm : RegMap) (m : Word) (v : Byte) : Option Byte :=
  if modeCrypto1 m then setValue v rm.crypto1On else clearedValue v rm.crypto1On

theorem setRfModeOps_drop_three (rm : RegMap) (m : Word) :
    (setRfModeOps rm m).drop 3 = [.write rm.channelRedundancy (redundancyByte rm m)] := by
  unfold setRfModeOps
  split <;> rfl

/-- The CRYPTO1 update of SET_RF_MODE, by MODE[8], and what follows it. -/
theorem RunsListing.crypto1 {c : Instr} {slot v : Byte} {rm : RegMap} {m : Word} {fin : State → State} {s t : State}
    {events : List PortEvent} {left : List Answer} {fuel : Nat} {Q : State → Prop}
    (hl : RunsListing c slot (setRfModeOps rm m) fin s) (hb : s.status.busy = true)
    (ht : WentOn s t events (updateAnswers v (crypto1Value rm m v) ++ left))
    (hgo : ∀ u, WentOn s u (updateEvents slot rm.control v (crypto1Value rm m v) ++ events) left →
      ∃ x, runOn c fuel (runOps slot fin ((setRfModeOps rm m).drop 3) 3 u) = some x ∧ Q x) :
    ∃ x, runOn c (fuel + 2) (runOps slot fin ((setRfModeOps rm m).drop 1) 1 t) = some x ∧ Q x := by
  rw [setRfModeOps_drop_three] at hgo
  unfold crypto1Value at ht hgo
  by_cases hm : modeCrypto1 m
  · rw [if_pos hm] at ht hgo
    exact hl.setBits (r := 0) hb ht (by simp [setRfModeOps, hm, setBitsOps]) fun u hu _ => hgo u hu
  · rw [if_neg hm] at ht hgo
    exact hl.clearBits (r := 0) hb ht (by simp [setRfModeOps, hm, clearBitsOps]) fun u hu _ => hgo u hu

/-- Settles O40: a write, the CRYPTO1 update and a write. -/
theorem setRfModeProgramsFramingCryptoAndRedundancy : Obligations.SetRfModeProgramsFramingCryptoAndRedundancy := by
  rintro slot s _ v w rest hs rfl hw henv
  obtain rfl : w = crypto1Value s.cfg.regs s.seq.larg0 v := hw
  have hl := setRfMode_runsListing slot s
  have hrun := hl.write (i := 0) (fuel := 3) hs.1 (.refl henv) rfl fun t ht =>
    hl.crypto1 (fuel := 1) hs.1 (by simpa using ht) fun u hu =>
      hl.write (i := 3) (fuel := 0) hs.1 hu (setRfModeOps_drop_three _ _) fun x hx => runOn_end hx rfl
  exact hl.startsWithWrite hs henv hrun

/-! ## APPLY_TABLE -/

/-- The entries stand in TXBUF, which the listing does not write. -/
theorem WentOn.txEntries {s t : State} {e : List PortEvent} {l : List Answer} (h : WentOn s t e l) (n : Nat) :
    txEntries n t = txEntries n s := by
  simp only [Machine.txEntries, h.bufByte]

theorem applyTable_runsListing {slot : Byte} {s : State} (hn : tableCount s.seq.larg0 ≤ s.cfg.txMax / 2) :
    RunsListing (.applyTable slot) slot (tableOps (txEntries (tableCount s.seq.larg0) s))
      (complete (BitVec.ofNat 32 (tableCount s.seq.larg0))) s := by
  refine .of_exec fun t _ _ ht => ?_
  rw [← ht.txEntries, ← ht.larg0]
  rw [← ht.larg0, ← ht.cfg] at hn
  exact congrArg _ (if_neg (Nat.not_lt.2 hn))

theorem txEntries_map_regWrite (slot : Byte) (n : Nat) (s : State) :
    ((txEntries n s).map fun e => PortEvent.regWrite slot e.1 e.2 true) = (List.range n).map fun k =>
      .regWrite slot (s.bufByte (0x100 + 2 * k)) (s.bufByte (0x100 + (2 * k + 1))) true := by
  rw [txEntries, List.map_map]
  rfl

/-- Settles O31: the listing is one apply_table of the entries in TXBUF and the end. -/
theorem applyTableWritesItsEntriesInOrder : Obligations.ApplyTableWritesItsEntriesInOrder := by
  rintro slot s n rest ⟨hb, hsp⟩ hcount hn henv
  obtain rfl : n = tableCount s.seq.larg0 := hcount
  have hl := applyTable_runsListing (slot := slot) hn
  have hexec := hl s [] _ 0 (.refl rfl) hsp
  have hlen : (txEntries (tableCount s.seq.larg0) s).length = tableCount s.seq.larg0 := by simp [txEntries]
  have hw : WentOn s s [] (List.replicate (txEntries (tableCount s.seq.larg0) s).length (.ok []) ++ rest) :=
    .refl (by rw [hlen]; exact henv)
  obtain ⟨u, hu, hend⟩ := hl.table (fuel := 0) (i := 0) (more := []) hb rfl hw fun t ht => runOn_end ht rfl
  rw [hlen, Nat.zero_add] at hu
  rw [List.append_nil, txEntries_map_regWrite] at hend
  exact ⟨_, u, hexec, (runToEnd_succ hexec).trans hu, hend⟩

end Sys2Proof.Machine
end

section
/-! The timer commands: for which timeouts the search of 41_timing.md R151 finds a pair (R152), DERIVE_TIMER and
ARM_TIMER. -/

namespace Sys2Proof.Machine

open Sys2Proof.Safety

/-! ## For which timeouts there is a pair -/

/-- The scan finds a prescaler exactly where it starts with one or some prescaler of the list is a candidate. -/
theorem timerSearch_isSome (t : Nat) (is : List Nat) (best : Option Nat) :
    (timerSearch t is best).isSome = (best.isSome || is.any (timerCandidate t)) := by
  induction is generalizing best with
  | nil => simp [timerSearch]
  | cons i is ih =>
    cases hc : timerCandidate t i with
    | false => simp [timerSearch, hc, ih]
    | true =>
      cases best with
      | none => simp [timerSearch, hc, ih]
      | some j =>
        by_cases hlt : timerOvershoot t i < timerOvershoot t j <;> simp [timerSearch, hc, ih, hlt]

/-- The achieved timeout is never below the one asked for, where the divisor of R151 is at most the clock: the timer
then runs for at least `d` ticks. -/
theorem le_timerAchieved {t i : Nat} (h : timerDivisor t i ≤ timerClock i) :
    t ≤ timerAchieved i (timerDivisor t i) := by
  have hd : timerClock i * t < 1000000 * timerDivisor t i := Nat.lt_mul_div_succ _ (by decide)
  have hd0 : 0 < timerDivisor t i := Nat.succ_pos _
  unfold timerAchieved
  generalize timerDivisor t i = d at *
  generalize timerClock i = clk at *
  have hq : clk / d * d ≤ clk := Nat.div_mul_le_self clk d
  rw [Nat.le_div_iff_mul_le (Nat.div_pos h hd0)]
  refine Nat.le_of_mul_le_mul_right (c := d) ?_ hd0
  calc t * (clk / d) * d = t * (clk / d * d) := Nat.mul_assoc ..
    _ ≤ t * clk := Nat.mul_le_mul_left t hq
    _ = clk * t := Nat.mul_comm ..
    _ ≤ 1000000 * d := hd.le

/-- A prescaler is a candidate exactly where its divisor fits the register and the clock. -/
theorem timerCandidate_iff {t i : Nat} :
    timerCandidate t i = true ↔ timerDivisor t i ≤ 255 ∧ timerDivisor t i ≤ timerClock i := by
  simp only [timerCandidate, Bool.and_eq_true, decide_eq_true_eq]
  exact ⟨And.left, fun h => ⟨h, le_timerAchieved h.2⟩⟩

/-- A timeout of a second or more needs more ticks than any prescaler's clock gives in one. -/
theorem timerCandidate_of_second_le {t i : Nat} (h : 1000000 ≤ t) : timerCandidate t i = false := by
  rw [← Bool.not_eq_true, timerCandidate_iff]
  rintro ⟨-, hclk⟩
  have hle : timerClock i ≤ timerClock i * t / 1000000 :=
    (Nat.le_div_iff_mul_le (by decide)).2 (Nat.mul_le_mul_left _ h)
  unfold timerDivisor at hclk
  omega

/-- Prescaler 16, whose clock is 206 Hz, serves every timeout below a second. -/
theorem timerCandidate_sixteen {t : Nat} (h : t ≤ 999999) : timerCandidate t 16 = true := by
  have hclk : timerClock 16 = 206 := by decide
  rw [timerCandidate_iff, timerDivisor, hclk]
  omega

/-- R152: there is a pair exactly for the timeouts of at most 999,999 microseconds. -/
theorem deriveTimer_isSome (t : Nat) : (deriveTimer t).isSome = true ↔ t ≤ 999999 := by
  rw [deriveTimer, Option.isSome_map, timerSearch_isSome, Option.isSome_none, Bool.false_or, List.any_eq_true]
  constructor
  · rintro ⟨i, -, hc⟩
    by_contra hlt
    rw [timerCandidate_of_second_le (by omega)] at hc
    cases hc
  · exact fun h => ⟨16, by decide, timerCandidate_sixteen h⟩

theorem deriveTimer_eq_none {t : Nat} (h : 999999 < t) : deriveTimer t = none := by
  rw [← Option.not_isSome_iff_eq_none, deriveTimer_isSome]
  omega

/-! ## DERIVE_TIMER -/

theorem complete_endedOk (r : Word) (s : State) : EndedOk s (complete r s) r [] s.envIn :=
  (WentOn.refl rfl).endedOk r

theorem exec_deriveTimer_of_pair {slot p d : Byte} {s : State} (h : deriveTimer (timeoutUsec s.seq) = some (p, d)) :
    exec (.deriveTimer slot) s = .next (complete (timerResult p d) s) := by
  simp only [exec, execDeriveTimer, h]

theorem exec_deriveTimer_of_none {slot : Byte} {s : State} (h : deriveTimer (timeoutUsec s.seq) = none) :
    exec (.deriveTimer slot) s = .next (raiseError .timerRange 0 s) := by
  simp only [exec, execDeriveTimer, h]

/-- Settles O36, by R152. -/
theorem deriveTimerReturnsThePairOrTimerRange : Obligations.DeriveTimerReturnsThePairOrTimerRange := by
  intro slot s
  constructor
  · intro hle
    obtain ⟨⟨p, d⟩, hpair⟩ := Option.isSome_iff_exists.1 ((deriveTimer_isSome _).2 hle)
    exact ⟨p, d, _, hpair, exec_deriveTimer_of_pair hpair, complete_endedOk _ s⟩
  · intro hlt
    exact ⟨_, exec_deriveTimer_of_none (deriveTimer_eq_none hlt), raiseError_endedInError _ _ s⟩

/-! ## ARM_TIMER -/

theorem exec_armTimer_of_pair {slot p d : Byte} {s : State} (hsp : s.seq.sp = .op 0)
    (h : deriveTimer (timeoutUsec s.seq) = some (p, d)) :
    exec (.armTimer slot) s = .next (armStep slot (holdPair p d s)) := by
  simp only [exec, execArmTimer, hsp, if_true, h]

theorem exec_armTimer_of_none {slot : Byte} {s : State} (hsp : s.seq.sp = .op 0)
    (h : deriveTimer (timeoutUsec s.seq) = none) :
    exec (.armTimer slot) s = .next (raiseError .timerRange 0 s) := by
  simp only [exec, execArmTimer, hsp, if_true, h]

theorem exec_armTimer_later {slot : Byte} {s : State} (hsp : s.seq.sp ≠ .op 0) :
    exec (.armTimer slot) s = .next (armStep slot s) := by
  simp only [exec, execArmTimer, if_neg hsp]

/-- A step of ARM_TIMER in a state that holds the pair of its timeout already, the first step included. -/
theorem exec_armTimer_of_held {slot : Byte} {s : State}
    (h : deriveTimer (timeoutUsec s.seq) = some (s.seq.p, s.seq.d)) :
    exec (.armTimer slot) s = .next (armStep slot s) := by
  by_cases hsp : s.seq.sp = .op 0
  · exact exec_armTimer_of_pair hsp h
  · exact exec_armTimer_later hsp

/-- Once the pair is held, ARM_TIMER is the listing of R153. -/
theorem armTimer_runsListing {slot p d : Byte} {s : State} (h : deriveTimer (timeoutUsec s.seq) = some (p, d)) :
    RunsListing (.armTimer slot) slot (armOps s.cfg.regs p d) (complete (timerResult p d)) (holdPair p d s) := by
  refine .of_exec fun t _ _ ht => ?_
  have hp : t.seq.p = p := ht.p
  have hd : t.seq.d = d := ht.d
  have htimeout : timeoutUsec t.seq = timeoutUsec s.seq := congrArg BitVec.toNat ht.larg2
  have hcfg : t.cfg = s.cfg := ht.cfg
  rw [exec_armTimer_of_held (by rw [htimeout, hp, hd, h]), armStep, hp, hd, hcfg]

/-- Settles O37: from the state that holds the pair, the listing is five writes and the end. -/
theorem armTimerWritesFiveRegistersInOrder : Obligations.ArmTimerWritesFiveRegistersInOrder := by
  intro slot s hs
  constructor
  · intro p d rest hpair henv
    have hl := armTimer_runsListing (slot := slot) hpair
    have hb : (holdPair p d s).status.busy = true := hs.1
    have hrun := hl.write (i := 0) (fuel := 4) hb (.refl henv) rfl fun _ h1 =>
      hl.write (i := 1) (fuel := 3) hb h1 rfl fun _ h2 => hl.write (i := 2) (fuel := 2) hb h2 rfl fun _ h3 =>
      hl.write (i := 3) (fuel := 1) hb h3 rfl fun _ h4 => hl.write (i := 4) (fuel := 0) hb h4 rfl fun _ h5 =>
      runOn_end h5 rfl
    obtain ⟨t1, t, hexec, htrace, hend, hq⟩ := hl.startsWithWrite ⟨hb, hs.2⟩ henv hrun
    have hfirst : exec (.armTimer slot) s = exec (.armTimer slot) (holdPair p d s) :=
      (exec_armTimer_of_pair hs.2 hpair).trans (exec_armTimer_of_held (s := holdPair p d s) hpair).symm
    exact ⟨t1, t, hfirst.trans hexec, htrace, hend, hq⟩
  · intro hlt
    exact ⟨_, exec_armTimer_of_none hs.2 (deriveTimer_eq_none hlt), raiseError_endedInError _ _ s⟩

end Sys2Proof.Machine
end

section
/-! The register procedures a second time, the commands that make them in sequence, and where a table write fails
(40_primitives.md R131 to R139, 43_link_config.md R221 to R224, 44_lifecycle.md R260). -/

namespace Sys2Proof.Machine

open Sys2Proof.Safety

/-! ## What a register procedure leaves in its register (40_primitives.md R131 to R133) -/

theorem and_not_or_and_self (v m : Byte) : (v &&& ~~~m) ||| (v &&& m) = v := by
  rw [← BitVec.and_or_distrib_left, BitVec.or_comm, BitVec.or_not_self, BitVec.and_allOnes]

theorem and_not_and_self (v m : Byte) : (v &&& ~~~m) &&& m = 0 := by
  rw [BitVec.and_assoc, BitVec.and_comm (~~~m), BitVec.and_not_self]
  exact BitVec.and_zero

theorem clearedValue_getD (v m : Byte) : (clearedValue v m).getD v = v &&& ~~~m := by
  unfold clearedValue
  split
  next h => simpa [h] using (and_not_or_and_self v m).symm
  next => rfl

theorem setValue_getD (v m : Byte) : (setValue v m).getD v = v ||| m := by
  unfold setValue
  split
  next h =>
    calc (v : Byte) = v ||| (v &&& m) := by ext i hi; simp +contextual
      _ = v ||| m := by rw [h]
  next => rfl

theorem maskedValue_getD (v m b : Byte) : (maskedValue v m b).getD v = (v &&& ~~~m) ||| (b &&& m) := by
  unfold maskedValue
  split
  next h => rw [← h, BitVec.and_assoc, BitVec.and_self]; exact (and_not_or_and_self v m).symm
  next => rfl

/-- Settles O30: the first call leaves the mask's bits as the test of the second wants them. -/
theorem primitivesAreIdempotent : Obligations.PrimitivesAreIdempotent := by
  refine ⟨fun v m => ?_, fun v m => ?_, fun v m b hb => ?_⟩
  · rw [clearedValue_getD, clearedValue, if_pos (and_not_and_self v m)]
  · have hset : (v ||| m) &&& m = m := by
      ext i hi
      simp +contextual
    rw [setValue_getD, setValue, if_pos hset]
  · have hbits : b &&& m = b := by simpa [hb] using and_not_or_and_self b m
    have hmasked : ((v &&& ~~~m) ||| (b &&& m)) &&& m = b := by
      rw [BitVec.and_comm, BitVec.and_or_distrib_left, BitVec.and_comm m, and_not_and_self, hbits,
        BitVec.and_comm m, hbits]
      exact BitVec.zero_or
    rw [maskedValue_getD, maskedValue, if_pos hmasked]

/-! ## APPLY_DEFAULTS -/

theorem applyDefaults_runsListing (slot : Byte) (s : State) :
    RunsListing (.applyDefaults slot) slot (applyDefaultsOps s.cfg)
      (complete (BitVec.ofNat 32 s.cfg.defaults.length)) s := by
  refine .of_exec fun t _ _ ht => ?_
  rw [← ht.cfg]
  rfl

/-- Settles O38: the listing is one set_bits, one apply_table of DEFAULTS_TABLE and the end. -/
theorem applyDefaultsFlushesThenWritesTheTable : Obligations.ApplyDefaultsFlushesThenWritesTheTable := by
  intro slot s v w rest hs hw henv
  obtain rfl : w = setValue v s.cfg.regs.flushFifo := hw
  rw [List.append_assoc] at henv
  have hl := applyDefaults_runsListing slot s
  have hrun := hl.setBits (i := 0) hs.1 (.refl henv) rfl fun t ht _ =>
    hl.table (fuel := 0) (i := 2) (more := []) hs.1 rfl ht fun u hu => runOn_end hu rfl
  rw [Nat.zero_add, List.append_nil] at hrun
  exact hl.startsWithRead hs henv hrun

/-! ## RESET_INIT -/

theorem resetInit_runsListing (slot : Byte) (s : State) :
    RunsListing (.resetInit slot) slot (resetInitOps s.cfg.regs) (complete 0) s := by
  refine .of_exec fun t _ _ ht => ?_
  rw [← ht.cfg]
  rfl

/-- Settles O42: the eight steps of R260, one rule each, and the end. -/
theorem resetInitRunsTheBringUpSequence : Obligations.ResetInitRunsTheBringUpSequence := by
  intro slot s v1 v3 v6 v8 rest hs henv
  simp only [List.append_assoc, List.cons_append, List.nil_append] at henv ⊢
  have hl := resetInit_runsListing slot s
  have hb := hs.1
  have hrun := hl.setBits (i := 0) hb (.refl henv) rfl fun _ h1 _ =>
    hl.hold (i := 2) hb h1 rfl fun _ h2 =>
    hl.clearBits (i := 3) hb h2 rfl fun _ h3 _ =>
    hl.write (i := 5) hb h3 rfl fun _ h4 =>
    hl.write (i := 6) hb h4 rfl fun _ h5 =>
    hl.setMasked (i := 7) hb h5 rfl fun _ h6 _ =>
    hl.hold (i := 9) hb h6 rfl fun _ h7 =>
    hl.setMasked (i := 10) (fuel := 0) (more := []) hb h7 rfl fun _ h8 _ => runOn_end h8 rfl
  rw [List.append_nil] at hrun
  exact hl.startsWithRead hs henv hrun

/-! ## SET_SPEED -/

/-- One masked update of a run: the register, its mask and bits, and the byte the register reads. -/
structure FieldUpdate where
  addr : Byte
  mask : Byte
  bits : Byte
  reads : Byte

namespace FieldUpdate

def ops (u : FieldUpdate) : List SeqOp := setMaskedOps u.addr u.mask u.bits

/-- The byte it writes; none where the register already holds the field. -/
def writes (u : FieldUpdate) : Option Byte := maskedValue u.reads u.mask u.bits

def answers (u : FieldUpdate) : List Answer := updateAnswers u.reads u.writes

def events (slot : Byte) (u : FieldUpdate) : List PortEvent := updateEvents slot u.addr u.reads u.writes

end FieldUpdate

/-- Masked updates in sequence, and then the rest of the listing. -/
theorem RunsListing.fieldUpdates {c : Instr} {slot : Byte} {ops more : List SeqOp} {fin : State → State}
    {s₀ s : State} {events : List PortEvent} {left : List Answer} {i fuel : Nat} {Q : State → Prop}
    (hl : RunsListing c slot ops fin s₀) (hb : s₀.status.busy = true) {us : List FieldUpdate}
    (hw : WentOn s₀ s events (us.flatMap FieldUpdate.answers ++ left))
    (hd : ops.drop i = us.flatMap FieldUpdate.ops ++ more)
    (hgo : ∀ t j, WentOn s₀ t (us.reverse.flatMap (FieldUpdate.events slot) ++ events) left →
      ∃ u, runOn c fuel (runOps slot fin more j t) = some u ∧ Q u) :
    ∃ u, runOn c (fuel + 2 * us.length) (runOps slot fin (ops.drop i) i s) = some u ∧ Q u := by
  induction us generalizing s events i with
  | nil =>
    rw [hd]
    exact hgo s i hw
  | cons f rest ih =>
    rw [List.flatMap_cons, List.append_assoc] at hw hd
    refine hl.setMasked hb hw hd fun t ht _ => ?_
    have hd' : ops.drop (i + 2) = rest.flatMap FieldUpdate.ops ++ more := drop_succ_of_drop (drop_succ_of_drop hd)
    rw [← hd']
    refine ih ht hd' fun u j hu => hgo u j ?_
    simpa [FieldUpdate.events, FieldUpdate.writes] using hu

/-- The updates of R223 for a profile, in order, over registers that read `v1` to `v6`. -/
def speedUpdates (rm : RegMap) (P : Profile) (v1 v2 v3 v4 v5 v6 : Byte) : List FieldUpdate :=
  [⟨rm.rxControl1, rm.subcpMask, P.subcp, v1⟩, ⟨rm.decoderControl, rm.codingMask, P.coding, v2⟩,
    ⟨rm.rxThreshold, 0xFF, P.threshold, v3⟩] ++
  (if P.coding = rm.codingBpsk then [⟨rm.bpskDemControl, 0xFF, P.bpskdem, v4⟩] else []) ++
  [⟨rm.coderControl, rm.coderrateMask, P.coderrate, v5⟩, ⟨rm.modWidth, 0xFF, P.modwidth, v6⟩]

section SpeedUpdates

variable (rm : RegMap) (P : Profile) (v1 v2 v3 v4 v5 v6 : Byte)

theorem setSpeedOps_eq_flatMap :
    setSpeedOps rm P = (speedUpdates rm P v1 v2 v3 v4 v5 v6).flatMap FieldUpdate.ops := by
  unfold setSpeedOps speedUpdates
  split <;> rfl

theorem length_speedUpdates_le : (speedUpdates rm P v1 v2 v3 v4 v5 v6).length ≤ 6 := by
  unfold speedUpdates
  split <;> simp

end SpeedUpdates

theorem profileAt_eq_getElem? (T : ProfileTable) (r : Byte) :
    profileAt T r = [T.r106k, T.r212k, T.r424k, T.r848k][r.toNat]? := by
  unfold profileAt
  generalize r.toNat = n
  match n with
  | 0 | 1 | 2 | 3 | _ + 4 => rfl

theorem exec_setSpeed_of_profile {slot rate : Byte} {s : State} {P : Profile}
    (h : profileAt s.cfg.profiles rate = some P) :
    exec (.setSpeed slot rate) s = .next (runListing slot (setSpeedOps s.cfg.regs P) (complete 0) s) := by
  simp only [exec, execSetSpeed, h]

theorem exec_setSpeed_of_none {slot rate : Byte} {s : State} (h : profileAt s.cfg.profiles rate = none) :
    exec (.setSpeed slot rate) s = .next (raiseError .config 0 s) := by
  simp only [exec, execSetSpeed, h]

theorem setSpeed_runsListing {slot rate : Byte} {s : State} {P : Profile}
    (h : profileAt s.cfg.profiles rate = some P) :
    RunsListing (.setSpeed slot rate) slot (setSpeedOps s.cfg.regs P) (complete 0) s := by
  refine .of_exec fun t _ _ ht => ?_
  rw [← ht.cfg] at h ⊢
  exact exec_setSpeed_of_profile h

/-- Settles O39: the listing is the masked updates of the profile and the end. -/
theorem setSpeedAppliesTheProfile : Obligations.SetSpeedAppliesTheProfile := by
  intro slot rate s P v1 v2 v3 v4 v5 v6 rest hs hprofile henv
  rw [← profileAt_eq_getElem?] at hprofile
  have hl := setSpeed_runsListing (slot := slot) hprofile
  generalize hus : speedUpdates s.cfg.regs P v1 v2 v3 v4 v5 v6 = us
  have hlen : us.length ≤ 6 := hus ▸ length_speedUpdates_le ..
  have hanswers : s.envIn = us.flatMap FieldUpdate.answers ++ rest := by
    rw [henv, ← hus, speedUpdates]
    split <;> simp [FieldUpdate.answers, FieldUpdate.writes]
  obtain ⟨u, hu, hend⟩ := hl.fieldUpdates (fuel := 0) (i := 0) (more := []) hs.1 (.refl hanswers)
    (by rw [List.drop_zero, List.append_nil, ← hus]; exact setSpeedOps_eq_flatMap ..) fun t j ht => runOn_end ht rfl
  refine hl.startsWithRead hs henv ⟨u, runOn_mono (by omega) hu, ?_⟩
  convert hend using 1
  rw [← hus, speedUpdates]
  split <;> simp [FieldUpdate.events, FieldUpdate.writes]

/-! ## Operands out of range -/

theorem exec_applyTable_of_count_gt {slot : Byte} {s : State} (h : s.cfg.txMax / 2 < tableCount s.seq.larg0) :
    exec (.applyTable slot) s = .next (raiseError .config 0 s) :=
  congrArg _ (if_pos h)

/-- Settles O33: either command raises CONFIG in place of its listing. -/
theorem outOfRangeOperandsEndWithConfig : Obligations.OutOfRangeOperandsEndWithConfig := by
  intro slot rate s
  refine ⟨fun hrate => ?_, fun hcount => ?_⟩
  · have hnone : profileAt s.cfg.profiles rate = none := by
      rw [profileAt_eq_getElem?, List.getElem?_eq_none hrate]
    exact ⟨_, exec_setSpeed_of_none hnone, raiseError_endedInError .config 0 s, rfl⟩
  · exact ⟨_, exec_applyTable_of_count_gt hcount, raiseError_endedInError .config 0 s, rfl⟩

/-! ## Where a table command fails (40_primitives.md R138, 43_link_config.md R221, 60_exceptions.md R312) -/

section TableFailure

variable {slot : Byte} {s : State} {fin : State → State} {more : List SeqOp} {i : Nat}

/-- A failed transaction ends the command with its event; a loop index set for it does not show. -/
theorem raiseError_answered_endedInError (ev : PortEvent) (r : Word) (k : Nat) (s : State) :
    EndedInError s (raiseError .transport r (answered ev (setK k s))) .transport r [ev] s.envIn.tail :=
  ⟨rfl, rfl, rfl, rfl, raiseError_keepsHostSide .transport r s, fun _ => rfl⟩

theorem regRead_fail_endedInError {a : Byte} {r : Word} {onOk : Byte → State → State} (hf : s.nextAnswer = .fail) :
    EndedInError s (regRead slot a (raiseError .transport r) onOk s) .transport r [.regRead slot a none]
      s.envIn.tail := by
  rw [regRead_of_fail hf]
  exact raiseError_answered_endedInError _ r s.seq.k s

theorem regWrite_fail_endedInError {a v : Byte} {r : Word} {onOk : State → State} (k : Nat)
    (hf : s.nextAnswer = .fail) :
    EndedInError s (regWrite slot a v (raiseError .transport r) onOk (setK k s)) .transport r
      [.regWrite slot a v false] s.envIn.tail := by
  have hf' : (setK k s).nextAnswer = .fail := hf
  rw [regWrite_of_fail hf']
  exact raiseError_answered_endedInError _ r k s

/-- The write of entry 0, at the loop's entry. -/
theorem runOps_table_fail {entries : List Entry} {e : Entry} (hf : s.nextAnswer = .fail)
    (he : entries[0]? = some e) :
    EndedInError s (runOps slot fin (.table entries :: more) i s) .transport (BitVec.ofNat 32 0)
      [.regWrite slot e.1 e.2 false] s.envIn.tail := by
  simp only [runOps, he]
  exact regWrite_fail_endedInError 0 hf

/-- The write of the entry after entry k, at the loop's back-edge. -/
theorem runOps_tableNext_fail {entries : List Entry} {e : Entry} (hf : s.nextAnswer = .fail)
    (he : entries[s.seq.k + 1]? = some e) :
    EndedInError s (runOps slot fin (.tableNext entries :: more) i s) .transport (BitVec.ofNat 32 (s.seq.k + 1))
      [.regWrite slot e.1 e.2 false] s.envIn.tail := by
  simp only [runOps, he]
  exact regWrite_fail_endedInError (s.seq.k + 1) hf

/-- The test of set_bits where the bits are set: the next step of the listing runs at once (R140). -/
theorem runOps_setIfClear_of_set {a m : Byte} {r : Word} (h : s.seq.v &&& m = m) :
    runOps slot fin (.setIfClear a m r :: more) i s = runOps slot fin more (i + 1) s := by
  simp only [runOps, setValue, if_pos h]

theorem runOps_setIfClear_of_clear {a m : Byte} {r : Word} (h : s.seq.v &&& m ≠ m) :
    runOps slot fin (.setIfClear a m r :: more) i s =
      regWrite slot a (s.seq.v ||| m) (raiseError .transport r) (goto (.op (i + 1))) s := by
  simp only [runOps, setValue, if_neg h]

/-- APPLY_TABLE at step `i` of its listing. -/
theorem exec_applyTable_at (hn : tableCount s.seq.larg0 ≤ s.cfg.txMax / 2) (hsp : s.seq.sp = .op i) :
    exec (.applyTable slot) s = .next (runOps slot (complete (BitVec.ofNat 32 (tableCount s.seq.larg0)))
      ((tableOps (txEntries (tableCount s.seq.larg0) s)).drop i) i s) :=
  applyTable_runsListing hn s [] _ i (.refl rfl) hsp

/-- APPLY_DEFAULTS at step `i` of its listing. -/
theorem exec_applyDefaults_at (hsp : s.seq.sp = .op i) :
    exec (.applyDefaults slot) s = .next (runOps slot (complete (BitVec.ofNat 32 s.cfg.defaults.length))
      ((applyDefaultsOps s.cfg).drop i) i s) :=
  applyDefaults_runsListing slot s s [] _ i (.refl rfl) hsp

theorem txEntries_getElem? {n k : Nat} (hk : k < n) :
    (txEntries n s)[k]? = some (s.bufByte (txAddr (2 * k)), s.bufByte (txAddr (2 * k + 1))) := by
  simp [txEntries, hk]

end TableFailure

/-- Settles O32: at each step the two listings can be at, the failed transaction is the one R134 and R132 issue
there. -/
theorem tableCommandsReportWhereTheyFailed : Obligations.TableCommandsReportWhereTheyFailed := by
  intro slot s hf
  refine ⟨?_, ?_, fun hsp => ?_, fun hsp hclear => ?_⟩
  · rintro k _ _ hat hk hn rfl rfl
    have he := txEntries_getElem? (s := s) hk
    obtain ⟨hsp, rfl⟩ | ⟨hsp, rfl⟩ := hat
    · exact ⟨_, exec_applyTable_at hn hsp, runOps_table_fail hf he⟩
    · exact ⟨_, exec_applyTable_at hn hsp, runOps_tableNext_fail hf he⟩
  · intro k e hat he
    obtain ⟨hsp, rfl⟩ | ⟨hsp, hset, rfl⟩ | ⟨hsp, rfl⟩ := hat
    · exact ⟨_, exec_applyDefaults_at hsp, runOps_table_fail hf he⟩
    · refine ⟨_, (exec_applyDefaults_at hsp).trans (congrArg _ (runOps_setIfClear_of_set hset)), ?_⟩
      exact runOps_table_fail hf he
    · exact ⟨_, exec_applyDefaults_at hsp, runOps_tableNext_fail hf he⟩
  · exact ⟨_, exec_applyDefaults_at hsp, regRead_fail_endedInError hf⟩
  · refine ⟨_, (exec_applyDefaults_at hsp).trans (congrArg _ (runOps_setIfClear_of_clear hclear)), ?_⟩
    exact regWrite_fail_endedInError s.seq.k hf

end Sys2Proof.Machine
end

section
/-! Which pair the search of 41_timing.md R151 picks, and for which timeouts it picks one (R152): the scan is the
library's `List.argmin` over the candidates, so the least overshoot and the smallest prescaler are facts about it. -/

namespace Sys2Proof.Machine

/-- Settles O34, by R152. -/
theorem timerPairExistsExactlyBelowOneSecond : Obligations.TimerPairExistsExactlyBelowOneSecond := by
  intro T
  rw [← Option.isSome_iff_exists]
  exact deriveTimer_isSome T

/-! ## The scan of R151 is an argmin -/

/-- The scan keeps the first least overshoot among the candidates of the rest of the list, as the fold of
`List.argmin` does. -/
theorem timerSearch_eq_foldl_argAux (t : Nat) (is : List Nat) (best : Option Nat) :
    timerSearch t is best =
      (is.filter (timerCandidate t)).foldl
        (List.argAux fun i j => timerOvershoot t i < timerOvershoot t j) best := by
  induction is generalizing best with
  | nil => rfl
  | cons i is ih =>
    cases hc : timerCandidate t i with
    | false => simp [timerSearch, hc, ih]
    | true => cases best <;> simp [timerSearch, hc, ih, List.argAux]

theorem timerSearch_eq_argmin (t : Nat) (is : List Nat) :
    timerSearch t is none = (is.filter (timerCandidate t)).argmin (timerOvershoot t) :=
  timerSearch_eq_foldl_argAux t is none

/-- In an ascending list the element that comes first is the smaller one. -/
theorem le_of_idxOf_le {l : List Nat} (hl : l.SortedLT) {a b : Nat} (ha : a ∈ l) (hb : b ∈ l)
    (h : l.idxOf a ≤ l.idxOf b) : a ≤ b := by
  have hle := (hl.getElem_le_getElem_iff (hi := List.idxOf_lt_length_of_mem ha)
    (hj := List.idxOf_lt_length_of_mem hb)).2 h
  simpa using hle

/-! ## The pair it picks -/

/-- Prescaler `j` is the choice of R151 for timeout `t`: a candidate of 0..20 of the least overshoot, and no other of
that overshoot is smaller (D15). -/
structure IsTimerChoice (t j : Nat) : Prop where
  le_twenty : j ≤ 20
  candidate : timerCandidate t j = true
  least : ∀ i ≤ 20, timerCandidate t i = true → timerOvershoot t j ≤ timerOvershoot t i
  first : ∀ i ≤ 20, timerCandidate t i = true → timerOvershoot t i = timerOvershoot t j → j ≤ i

theorem mem_timerCandidates {t i : Nat} :
    i ∈ (List.range 21).filter (timerCandidate t) ↔ i ≤ 20 ∧ timerCandidate t i = true := by
  rw [List.mem_filter, List.mem_range, Nat.lt_succ_iff]

theorem timerSearch_isTimerChoice {t j : Nat} (h : timerSearch t (List.range 21) none = some j) :
    IsTimerChoice t j := by
  rw [timerSearch_eq_argmin] at h
  have hmem := List.argmin_mem h
  have hsorted : ((List.range 21).filter (timerCandidate t)).SortedLT :=
    (List.pairwise_lt_range.filter _).sortedLT
  obtain ⟨hj, hc⟩ := mem_timerCandidates.1 hmem
  refine ⟨hj, hc, fun i hi hci => ?_, fun i hi hci heq => ?_⟩
  · exact List.le_of_mem_argmin (mem_timerCandidates.2 ⟨hi, hci⟩) h
  · have hi' := mem_timerCandidates.2 ⟨hi, hci⟩
    exact le_of_idxOf_le hsorted hmem hi' (List.index_of_argmin h hi' heq.le)

/-- The two bytes of the pair are the chosen prescaler and its divisor: both fit in a byte. -/
theorem isTimerChoice_of_deriveTimer {t : Nat} {p d : Byte} (h : deriveTimer t = some (p, d)) :
    IsTimerChoice t p.toNat ∧ d.toNat = timerDivisor t p.toNat := by
  obtain ⟨j, hsearch, hpair⟩ := Option.map_eq_some_iff.1 h
  have hj := timerSearch_isTimerChoice hsearch
  obtain ⟨rfl, rfl⟩ := Prod.mk.inj hpair
  have hp : (BitVec.ofNat 8 j).toNat = j := Nat.mod_eq_of_lt (by have := hj.le_twenty; omega)
  have hd : (BitVec.ofNat 8 (timerDivisor t j)).toNat = timerDivisor t j :=
    Nat.mod_eq_of_lt (Nat.lt_succ_iff.2 (timerCandidate_iff.1 hj.candidate).1)
  rw [hp]
  exact ⟨hj, hd⟩

/-- What a candidate achieves is its timeout and its overshoot together. -/
theorem add_timerOvershoot {t i : Nat} (hc : timerCandidate t i = true) :
    t + timerOvershoot t i = timerAchieved i (timerDivisor t i) :=
  Nat.add_sub_cancel' (le_timerAchieved (timerCandidate_iff.1 hc).2)

/-- Among the candidates the least overshoot is the least achieved timeout. -/
theorem IsTimerChoice.achieved {t j i : Nat} (hj : IsTimerChoice t j) (hi : i ≤ 20)
    (hc : timerCandidate t i = true) :
    timerAchieved j (timerDivisor t j) ≤ timerAchieved i (timerDivisor t i) ∧
      (timerAchieved j (timerDivisor t j) = timerAchieved i (timerDivisor t i) → j ≤ i) := by
  rw [← add_timerOvershoot hj.candidate, ← add_timerOvershoot hc]
  exact ⟨Nat.add_le_add_left (hj.least i hi hc) t, fun heq => hj.first i hi hc (Nat.add_left_cancel heq.symm)⟩

/-- Settles O35: the pair holds the choice of R151 and its divisor. -/
theorem derivedTimerPairHasTheLeastOvershoot : Obligations.DerivedTimerPairHasTheLeastOvershoot := by
  intro T p d h
  obtain ⟨hchoice, hd⟩ := isTimerChoice_of_deriveTimer h
  obtain ⟨hbyte, hclk⟩ := timerCandidate_iff.1 hchoice.candidate
  rw [hd]
  refine ⟨hchoice.le_twenty, rfl, hbyte, hclk, le_timerAchieved hclk, ?_⟩
  rintro i _ hi rfl hbyte' hclk' -
  exact hchoice.achieved hi (timerCandidate_iff.2 ⟨hbyte', hclk'⟩)

end Sys2Proof.Machine
end

section
/-! The two ends of TRANSCEIVE, its operand checks, the bytes it streams and its poll iterations (42_transceive.md R171
to R189). -/

namespace Sys2Proof.Machine

open Sys2Proof.Safety

/-! ## The link-layer toggle -/

/-- Settles O58: `decode` reads the packed fields back, and TRANSCEIVE's arm of `exec` does not use IMM8. -/
theorem toggleHintHasNoEffect : Obligations.ToggleHintHasNoEffect :=
  ⟨fun slot => ⟨decode_packWord 0 slot 6, decode_packWord 1 slot 6⟩, fun _ _ => rfl⟩

/-! ## The end with an error -/

/-- The end of TRANSCEIVE with an error, seen from a state `s` that only the port, RXBUF and the hidden state have
left. -/
theorem raiseTransceive_transceiveFailed {s u : State} {events : List PortEvent} (code : ErrCode)
    (hk : KeepsHostSide s u) (hst : u.status = s.status) (htr : u.trace = events ++ s.trace) :
    TransceiveFailed s (raiseTransceive code u) code events := by
  obtain ⟨hres, hstatus, htrace, hhost, hrx⟩ := raiseTransceive_failed code u
  rw [hst] at hstatus
  exact ⟨hres, hstatus, htrace.trans htr, keepsHostSide_trans hk hhost, hrx⟩

/-- TRANSCEIVE ended from `s` in `t` as R185 or R186 says. -/
def EndsAsSpecified (s t : State) : Prop :=
  (∃ events, TransceiveSucceeded s t s.seq.n (truncated s.seq) events ∧
    (s.seq.sp = .drainFlush → HoldsAnswer t s.seq.bytes) ∧ (s.seq.sp ≠ .drainFlush → KeepsMemory s t)) ∨
  ∃ code events, code ≠ .none ∧ code ≠ .illegal ∧ TransceiveFailed s t code events

/-- Of the ways a step of TRANSCEIVE can go, those that leave BUSY = 0 are its two ends. -/
theorem TransceiveOutcome.endsAsSpecified {slot : Byte} {s t : State} (h : TransceiveOutcome slot s t)
    (hbs : s.status.busy = true) (hbt : t.status.busy = false) : EndsAsSpecified s t := by
  have hstored := storeRx_keepsHostSide s.seq.bytes s
  have goesOn (hgo : t.status.busy = s.status.busy) : EndsAsSpecified s t := by
    rw [hbs, hbt] at hgo
    cases hgo
  cases h with
  | storedAndSucceeded hs =>
    exact .inl ⟨[], succeed_transceiveSucceeded hstored rfl rfl rfl rfl,
      fun _ => holdsAnswer_congr (storeRx_holdsAnswer s.seq.bytes s) rfl, fun hne => absurd hs hne⟩
  | succeeded hs hsp =>
    exact .inl ⟨[], succeed_transceiveSucceeded (keepsHostSide_refl s) rfl rfl rfl rfl,
      fun heq => absurd heq hsp, fun _ _ => rfl⟩
  | raised c hc hi => exact .inr ⟨c, [], hc, hi, raiseTransceive_failed c s⟩
  | failed ev hev hf =>
    exact .inr ⟨.transport, [ev], by decide, by decide,
      raiseTransceive_transceiveFailed _ (keepsHostSide_answered ev (keepsHostSide_refl _)) rfl rfl⟩
  | storedAndFailed ev hev hf =>
    exact .inr ⟨.transport, [ev], by decide, by decide, raiseTransceive_transceiveFailed _
      (keepsHostSide_trans hstored (keepsHostSide_answered ev (keepsHostSide_refl _))) rfl rfl⟩
  | yielded us q hs hsp hq => exact goesOn rfl
  | went ev q hev hf hsp hd hq => exact goesOn rfl
  | entered ev q hev hf hp hq => exact goesOn rfl
  | stored ev q hev hf hs hsp hq => exact goesOn rfl

/-- Settles O57, by the case list of `TransceiveOutcome`. -/
theorem transceiveEndsInSuccessOrError : Obligations.TransceiveEndsInSuccessOrError := by
  intro slot x s t hbs h hbt
  cases h
  exact (transceiveStep_outcome slot s).endsAsSpecified hbs hbt

/-! ## The operand checks (R171) -/

section Operands

variable {slot : Byte} {s : State}

theorem transceiveFirst_of_long (h : s.cfg.txMax < xferTxLen s.seq) :
    transceiveFirst slot s = raiseTransceive .config s := if_pos h

/-- R173: the timeout is relaxed tenfold before the pair is derived. -/
theorem transceiveFirst_of_noPair (hlen : xferTxLen s.seq ≤ s.cfg.txMax)
    (hpair : deriveTimer (10 * timeoutUsec s.seq) = none) :
    transceiveFirst slot s = raiseTransceive .timerRange s := by
  have hpair : deriveTimer (timeoutRelax * timeoutUsec s.seq) = none := hpair
  simp [transceiveFirst, Nat.not_lt.2 hlen, hpair]

/-- The first of the seven writes, whether ENV answers ok or failure. -/
theorem armWrite_zero_transaction (slot : Byte) (s : State) :
    ∃ ok, (armWrite slot 0 s).trace = .regWrite slot s.cfg.regs.command s.cfg.regs.cmdIdle ok :: s.trace ∧
      (armWrite slot 0 s).txns = s.txns + 1 := by
  have hwrite : armWrite slot 0 s =
      regWrite slot s.cfg.regs.command s.cfg.regs.cmdIdle failTransceive (goto (.op 1)) s := rfl
  rw [hwrite]
  obtain ⟨_, h⟩ | ⟨_, h⟩ :=
    regWrite_cases slot s.cfg.regs.command s.cfg.regs.cmdIdle failTransceive (goto (.op 1)) s <;> rw [h]
  · exact ⟨false, rfl, rfl⟩
  · exact ⟨true, rfl, rfl⟩

end Operands

/-- Settles O45: ten times the timeout has a pair exactly where the timeout is below 100,000 (R152). -/
theorem transceiveChecksOperandsFirst : Obligations.TransceiveChecksOperandsFirst := by
  intro slot x s len hsp hlen
  subst hlen
  have hfirst := transceiveStep_op_zero (slot := slot) hsp
  refine ⟨fun hlong => ?_, fun hle hlt => ?_, fun hle ht => ?_⟩
  · exact ⟨_, exec_of_step (hfirst.trans (transceiveFirst_of_long hlong)), raiseTransceive_failed .config s, rfl⟩
  · have hnone : deriveTimer (10 * timeoutUsec s.seq) = none := deriveTimer_eq_none (by rw [timeoutUsec]; omega)
    exact ⟨_, exec_of_step (hfirst.trans (transceiveFirst_of_noPair hle hnone)),
      raiseTransceive_failed .timerRange s, rfl⟩
  · obtain ⟨⟨p, d⟩, hpair⟩ : ∃ pd, deriveTimer (10 * timeoutUsec s.seq) = some pd :=
      Option.isSome_iff_exists.1 ((deriveTimer_isSome _).2 (by rw [timeoutUsec]; omega))
    obtain ⟨ok, htrace, htxns⟩ := armWrite_zero_transaction slot (holdPair p d s)
    exact ⟨_, ok, exec_of_step (hfirst.trans (transceiveFirst_of_legal hle hpair)), htrace, htxns⟩

/-! ## Streaming (R175, R176, R189) -/

section Streaming

variable {slot : Byte} {s t : State}

/-- A transaction of TRANSCEIVE after which BUSY is 1 was answered ok. -/
theorem regRead_of_busy {a : Byte} {onOk : Byte → State → State}
    (hb : (regRead slot a failTransceive onOk s).status.busy = true) :
    ∃ v, regRead slot a failTransceive onOk s = onOk v (answered (.regRead slot a (some v)) s) :=
  (regRead_cases slot a failTransceive onOk s).elim (fun ⟨_, h⟩ => by rw [h] at hb; cases hb) And.right

theorem regWrite_of_busy {a v : Byte} {onOk : State → State}
    (hb : (regWrite slot a v failTransceive onOk s).status.busy = true) :
    regWrite slot a v failTransceive onOk s = onOk (answered (.regWrite slot a v true) s) :=
  (regWrite_cases slot a v failTransceive onOk s).elim (fun ⟨_, h⟩ => by rw [h] at hb; cases hb) And.right

theorem fifoWrite_of_busy {bytes : List Byte} {onOk : State → State}
    (hb : (fifoWrite slot bytes failTransceive onOk s).status.busy = true) :
    fifoWrite slot bytes failTransceive onOk s = onOk (answered (.fifoWrite slot bytes true) s) :=
  (fifoWrite_cases slot bytes failTransceive onOk s).elim (fun ⟨_, h⟩ => by rw [h] at hb; cases hb) And.right

/-- From `s` to `t` a streaming step did one transaction, which handed over the bytes of TXBUF between the two counts;
AWAIT shows only once all of them are sent. -/
def HandsOver (len : Nat) (s t : State) : Prop :=
  (∃ ev, t.trace = ev :: s.trace ∧
    fifoBytes ev = s.txBytes (streamed s.seq) (streamed t.seq - streamed s.seq)) ∧
  streamed s.seq ≤ streamed t.seq ∧ streamed t.seq ≤ len ∧ (t.status.phase = .await → streamed t.seq = len)

/-- A transaction that hands no byte to the FIFO and keeps the count. -/
theorem handsOver_of_noBytes {len : Nat} {ev : PortEvent} (htr : t.trace = ev :: s.trace) (hev : fifoBytes ev = [])
    (hcount : streamed t.seq = streamed s.seq) (hle : streamed s.seq ≤ len)
    (hawait : t.status.phase = .await → streamed s.seq = len) : HandsOver len s t := by
  refine ⟨⟨ev, htr, ?_⟩, hcount.ge, hcount.trans_le hle, fun h => hcount.trans (hawait h)⟩
  rw [hev, hcount, Nat.sub_self]
  rfl

/-- A FifoWrite of the next `n` bytes. -/
theorem handsOver_of_chunk {len n : Nat}
    (htr : t.trace = .fifoWrite slot (s.txBytes (streamed s.seq) n) true :: s.trace)
    (hcount : streamed t.seq = streamed s.seq + n) (hle : streamed s.seq + n ≤ len)
    (hph : t.status.phase ≠ .await) : HandsOver len s t := by
  refine ⟨⟨_, htr, ?_⟩, ?_, hcount.trans_le hle, fun h => absurd h hph⟩
  · rw [hcount, Nat.add_sub_cancel_left]
    rfl
  · rw [hcount]
    exact Nat.le_add_right _ _

/-- The loop test of step 2 hands nothing over, and begins step 3 only where no byte is left. -/
theorem streamLoop_handsOver {q : Seq} (hoff : q.txOff = streamed s.seq) (hlen : xferTxLen q = xferTxLen s.seq)
    (hle : streamed s.seq ≤ xferTxLen s.seq) (hph : s.status.phase = .streaming)
    (hb : (streamLoop slot { s with seq := q }).status.busy = true) :
    HandsOver (xferTxLen s.seq) s (streamLoop slot { s with seq := q }) := by
  unfold streamLoop at hb ⊢
  split at hb
  next hlt =>
    obtain ⟨v, hread⟩ := regRead_of_busy hb
    rw [if_pos hlt, readFill, hread]
    exact handsOver_of_noBytes rfl rfl hoff hle fun h => by simp [hph] at h
  next hge =>
    obtain ⟨v, hread⟩ := regRead_of_busy hb
    have hall : xferTxLen s.seq ≤ streamed s.seq := by
      rw [← hlen, ← hoff]
      exact Nat.not_lt.1 hge
    rw [if_neg hge, pollCommand, hread]
    exact handsOver_of_noBytes rfl rfl hoff hle fun _ => Nat.le_antisymm hle hall

theorem firstChunk_handsOver (hsp : s.seq.sp = .firstChunk) (hb : (firstChunk slot s).status.busy = true) :
    HandsOver (xferTxLen s.seq) s (firstChunk slot s) := by
  have hzero : streamed s.seq = 0 := by simp [streamed, hsp]
  have hwrite : firstChunk slot s = _ := fifoWrite_of_busy hb
  rw [hwrite]
  refine handsOver_of_chunk (slot := slot) (n := min fifoSize (xferTxLen s.seq)) ?_ ?_ ?_ ?_
  · rw [hzero]
    rfl
  · rw [hzero, Nat.zero_add]
    rfl
  · rw [hzero, Nat.zero_add]
    exact Nat.min_le_right _ _
  · simp

theorem startExchange_handsOver (hsp : s.seq.sp = .startExchange) (hph : s.status.phase = .streaming)
    (hle : streamed s.seq ≤ xferTxLen s.seq) (hb : (startExchange slot s).status.busy = true) :
    HandsOver (xferTxLen s.seq) s (startExchange slot s) := by
  have hcount : streamed s.seq = s.seq.chunk := by simp [streamed, hsp]
  have hwrite : startExchange slot s = _ := regWrite_of_busy hb
  rw [hwrite]
  exact handsOver_of_noBytes rfl rfl hcount.symm hle fun h => by simp [hph] at h

theorem laterChunk_le (q : Seq) : laterChunk q ≤ xferTxLen q - q.txOff := by
  unfold laterChunk
  split
  · exact Nat.min_le_right _ _
  · exact Nat.zero_le _

theorem nextChunk_handsOver (hsp : s.seq.sp = .nextChunk) (hph : s.status.phase = .streaming)
    (hle : streamed s.seq ≤ xferTxLen s.seq) (hb : (nextChunk slot s).status.busy = true) :
    HandsOver (xferTxLen s.seq) s (nextChunk slot s) := by
  have hcount : streamed s.seq = s.seq.txOff := by simp [streamed, hsp]
  by_cases hzero : laterChunk s.seq = 0
  · have hloop : nextChunk slot s = streamLoop slot { s with seq := { s.seq with chunk := 0 } } := if_pos hzero
    rw [hloop] at hb ⊢
    exact streamLoop_handsOver hcount.symm rfl hle hph hb
  · have hchunk : nextChunk slot s = fifoWrite slot (s.txBytes s.seq.txOff (laterChunk s.seq)) failTransceive
        (goto .streamBack) { s with seq := { s.seq with chunk := laterChunk s.seq } } := if_neg hzero
    rw [hchunk] at hb ⊢
    have hroom := laterChunk_le s.seq
    rw [fifoWrite_of_busy hb]
    refine handsOver_of_chunk (slot := slot) (n := laterChunk s.seq) ?_ ?_ (by omega) (by simp [hph])
    · rw [hcount]
      rfl
    · rw [hcount]
      rfl

end Streaming

/-- Settles O49, by the step of the streaming. -/
theorem transceiveStreamsEveryByteOnceInOrder : Obligations.TransceiveStreamsEveryByteOnceInOrder := by
  intro slot x s t len hsp hph hlen hle h hb
  subst hlen
  cases h
  show HandsOver (xferTxLen s.seq) s (transceiveStep slot s)
  simp only [List.mem_cons, List.not_mem_nil, or_false] at hsp
  obtain hsp | hsp | hsp | hsp | hsp := hsp <;> rw [hsp] at hph
  · rw [transceiveStep_firstChunk hsp] at hb ⊢
    exact firstChunk_handsOver hsp hb
  · rw [transceiveStep_startExchange hsp] at hb ⊢
    exact startExchange_handsOver hsp hph hle hb
  · rw [transceiveStep_streamEntry hsp] at hb ⊢
    exact streamLoop_handsOver (by simp [streamed, hsp]) rfl hle hph hb
  · rw [transceiveStep_nextChunk hsp] at hb ⊢
    exact nextChunk_handsOver hsp hph hle hb
  · rw [transceiveStep_streamBack hsp] at hb ⊢
    exact streamLoop_handsOver (by simp [streamed, hsp]) rfl hle hph hb

/-! ## A poll iteration (R177 to R182) -/

section Iteration

variable {slot x v : Byte} {s : State} {rest : List Answer}

/-- STAT_ERR is set: ERROR_FLAG is read. -/
theorem pollFlags_of_error (herr : s.seq.s &&& s.cfg.regs.statErr ≠ 0) (h : s.envIn = .ok [v] :: rest) :
    pollFlags slot s = advanced (.regRead slot s.cfg.regs.errorFlag (some v))
      { s.seq with e := v, sp := .testError } s.status.phase s := by
  rw [pollFlags, if_pos herr, regRead_of_ok h]
  rfl

theorem pollFlags_of_noError (herr : s.seq.s &&& s.cfg.regs.statErr = 0) :
    pollFlags slot s = readInterrupts slot s := if_neg (not_not.2 herr)

/-- STAT_IRQ is set: INTERRUPT_RQ is read. -/
theorem readInterrupts_of_irq (hirq : s.seq.s &&& s.cfg.regs.statIrq ≠ 0) (h : s.envIn = .ok [v] :: rest) :
    readInterrupts slot s = advanced (.regRead slot s.cfg.regs.interruptRq (some v))
      { s.seq with q := v, sp := .testIrq } s.status.phase s := by
  rw [readInterrupts, if_pos hirq, regRead_of_ok h]
  rfl

theorem readInterrupts_of_noIrq (hirq : s.seq.s &&& s.cfg.regs.statIrq = 0) :
    readInterrupts slot s = endIteration s := if_neg (not_not.2 hirq)

/-- Where a step of TRANSCEIVE tests STAT_IRQ and finds it set, it is the read of INTERRUPT_RQ. -/
theorem exec_readInterrupts (hstep : transceiveStep slot s = readInterrupts slot s)
    (hirq : s.seq.s &&& s.cfg.regs.statIrq ≠ 0) (h : s.envIn = .ok [v] :: rest) :
    ∃ t, exec (.transceive slot x) s = .next t ∧
      t.trace = .regRead slot s.cfg.regs.interruptRq (some v) :: s.trace ∧ t.seq.q = v ∧ t.seq.sp = .testIrq ∧
      t.status = s.status ∧ KeepsHostSide s t ∧ KeepsMemory s t :=
  ⟨_, exec_of_step (hstep.trans (readInterrupts_of_irq hirq h)), rfl, rfl, rfl, rfl, advanced_keepsHostSide _ _ _ s,
    advanced_keepsMemory _ _ _ s⟩

/-- R179: LINK comes before CRC. -/
theorem testError_of_link
    (h : s.seq.e &&& (s.cfg.regs.errColl ||| s.cfg.regs.errParity ||| s.cfg.regs.errFraming) ≠ 0) :
    testError slot s = raiseTransceive .link s := if_pos h

/-- R180: a CRC bit alone ends the command where CTRL.CRC_ABORT asks for it. -/
theorem testError_of_crc
    (hlink : s.seq.e &&& (s.cfg.regs.errColl ||| s.cfg.regs.errParity ||| s.cfg.regs.errFraming) = 0)
    (habort : s.ctrl.crcAbort = true) (hcrc : s.seq.e &&& s.cfg.regs.errCrc ≠ 0) :
    testError slot s = raiseTransceive .crc s := by
  rw [testError, if_neg (not_not.2 hlink), if_pos ⟨habort, hcrc⟩]

theorem testError_of_noEvent
    (hlink : s.seq.e &&& (s.cfg.regs.errColl ||| s.cfg.regs.errParity ||| s.cfg.regs.errFraming) = 0)
    (hcrc : s.ctrl.crcAbort = false ∨ s.seq.e &&& s.cfg.regs.errCrc = 0) :
    testError slot s = readInterrupts slot s := by
  rw [testError, if_neg (not_not.2 hlink), if_neg]
  rintro ⟨habort, hbit⟩
  obtain hoff | hclear := hcrc
  · rw [habort] at hoff
    cases hoff
  · exact hbit hclear

/-- R181: the timer flag without the receive flag: IRQ_TIMER is cleared. -/
theorem testIrq_of_timer (htimer : s.seq.q &&& s.cfg.regs.irqTimer ≠ 0) (hrx : s.seq.q &&& s.cfg.regs.irqRx = 0) :
    testIrq slot s =
      regWrite slot s.cfg.regs.interruptRq s.cfg.regs.irqTimer failTransceive (goto .timedOut) s :=
  if_pos ⟨htimer, hrx⟩

theorem testIrq_of_noEvent (h : s.seq.q &&& s.cfg.regs.irqTimer = 0 ∨ s.seq.q &&& s.cfg.regs.irqRx ≠ 0) :
    testIrq slot s = endIteration s :=
  if_neg fun ⟨htimer, hrx⟩ => h.elim htimer fun hne => hne hrx

/-- Where neither STAT_ERR nor STAT_IRQ is set the iteration ends. -/
theorem pollFlags_of_noEvent (herr : s.seq.s &&& s.cfg.regs.statErr = 0)
    (hirq : s.seq.s &&& s.cfg.regs.statIrq = 0) : pollFlags slot s = endIteration s :=
  (pollFlags_of_noError herr).trans (readInterrupts_of_noIrq hirq)

end Iteration

/-- Settles O54: with neither status bit the step is `endIteration`. -/
theorem iterationWithoutEventYieldsOrHitsTheLimit : Obligations.IterationWithoutEventYieldsOrHitsTheLimit :=
  fun _ _ _ hsp herr hirq =>
    endsIteration_of_step ((transceiveStep_pollFlags hsp).trans (pollFlags_of_noEvent herr hirq))

/-- Settles O52, by the tests of STAT_ERR, of the link bits, of the CRC bit and of STAT_IRQ in R319's order. -/
theorem errorFlagBitsEndWithLinkOrCrc : Obligations.ErrorFlagBitsEndWithLinkOrCrc := by
  refine ⟨fun slot x s v rest hsp herr henv => ?_, fun slot x s v rest hsp herr hirq henv => ?_,
    fun slot x s link hsp hlink => ?_⟩
  · exact ⟨_, exec_of_step ((transceiveStep_pollFlags hsp).trans (pollFlags_of_error herr henv)), rfl, rfl, rfl, rfl,
      advanced_keepsHostSide _ _ _ s, advanced_keepsMemory _ _ _ s⟩
  · exact exec_readInterrupts ((transceiveStep_pollFlags hsp).trans (pollFlags_of_noError herr)) hirq henv
  · subst hlink
    have hstep := transceiveStep_testError (slot := slot) hsp
    refine ⟨fun hbit => ?_, fun hno habort hcrc => ?_, fun hno hcrc => ?_⟩
    · exact ⟨_, exec_of_step (hstep.trans (testError_of_link hbit)), raiseTransceive_failed .link s, rfl⟩
    · exact ⟨_, exec_of_step (hstep.trans (testError_of_crc hno habort hcrc)), raiseTransceive_failed .crc s, rfl⟩
    · have hread := hstep.trans (testError_of_noEvent hno hcrc)
      exact ⟨fun v rest henv hirq => exec_readInterrupts hread hirq henv,
        fun hirq => endsIteration_of_step (hread.trans (readInterrupts_of_noIrq hirq))⟩

/-- Settles O53: the clear of IRQ_TIMER leads to TIMEOUT or fails with TRANSPORT; without event (c) the step is
`endIteration`. -/
theorem timerFlagWithoutReceiveFlagIsTimeout : Obligations.TimerFlagWithoutReceiveFlagIsTimeout := by
  intro slot x s hsp
  have hstep := transceiveStep_testIrq (slot := slot) hsp
  refine ⟨fun htimer hrx => ⟨fun b rest henv => ?_, fun rest henv => ?_⟩, fun hno => ?_⟩
  · have hclear := hstep.trans ((testIrq_of_timer htimer hrx).trans (regWrite_of_ok henv))
    exact ⟨_, _, exec_of_step hclear, rfl, exec_of_step (transceiveStep_timedOut rfl),
      raiseTransceive_transceiveFailed .timeout (keepsHostSide_goto_answered (keepsHostSide_refl s) _ _) rfl rfl⟩
  · have hfail := hstep.trans ((testIrq_of_timer htimer hrx).trans (regWrite_of_fail (State.nextAnswer_cons henv)))
    exact ⟨_, exec_of_step hfail, raiseTransceive_transceiveFailed .transport
      (keepsHostSide_answered _ (keepsHostSide_refl _)) rfl rfl⟩
  · exact endsIteration_of_step (hstep.trans (testIrq_of_noEvent hno))

end Sys2Proof.Machine
end

section
/-! A whole exchange of TRANSCEIVE: arming, one chunk, any number of poll iterations with no event, the drain and the end
(42_transceive.md R170, R190). -/

namespace Sys2Proof.Machine

open Sys2Proof.Safety

/-! ## Runs of a command -/

section Runs

variable {c : Instr} {s t u : State}

theorem runSteps_succ {n : Nat} (h : exec c s = .next t) : runSteps c (n + 1) s = runSteps c n t := by
  simp [runSteps, h]

theorem runSteps_add {m n : Nat} (h : runSteps c m s = some t) (g : runSteps c n t = some u) :
    runSteps c (m + n) s = some u := by
  induction m generalizing s with
  | zero =>
    cases h
    rwa [Nat.zero_add]
  | succ m ih =>
    obtain ⟨r, hr⟩ := everyCommandStepAnswers c s
    rw [runSteps_succ hr] at h
    rw [Nat.succ_add, runSteps_succ hr]
    exact ih h

/-- A step that leaves BUSY = 1 started with BUSY = 1: no command sets it. -/
theorem busy_of_exec (h : exec c s = .next t) (hb : t.status.busy = true) : s.status.busy = true := by
  obtain hgo | ⟨hidle, _⟩ := exec_goesOn_or_ends h
  · exact hgo.busy_eq.symm.trans hb
  · rw [hb] at hidle
    cases hidle

theorem busy_of_runSteps {n : Nat} (h : runSteps c n s = some t) (hb : t.status.busy = true) :
    s.status.busy = true := by
  induction n generalizing s with
  | zero =>
    cases h
    exact hb
  | succ n ih =>
    obtain ⟨r, hr⟩ := everyCommandStepAnswers c s
    rw [runSteps_succ hr] at h
    exact busy_of_exec hr (ih h)

/-- The first step of a run that leaves BUSY = 1 leaves it so, too. -/
theorem exec_busy_of_runSteps {n : Nat} (h : runSteps c (n + 1) s = some t) (hb : t.status.busy = true) :
    ∃ r, exec c s = .next r ∧ r.status.busy = true := by
  obtain ⟨r, hr⟩ := everyCommandStepAnswers c s
  rw [runSteps_succ hr] at h
  exact ⟨r, hr, busy_of_runSteps h hb⟩

/-- A run to the command's end goes through the state that `n` steps give with BUSY = 1. -/
theorem runToEnd_of_runSteps {m n : Nat} (h : runSteps c n s = some t) (hb : t.status.busy = true) :
    runToEnd c (n + m) s = runToEnd c m t := by
  induction n generalizing s with
  | zero =>
    cases h
    rw [Nat.zero_add]
  | succ n ih =>
    obtain ⟨r, hr⟩ := everyCommandStepAnswers c s
    rw [runSteps_succ hr] at h
    rw [Nat.succ_add, runToEnd_succ hr, runOn, if_pos (busy_of_runSteps h hb)]
    exact ih h

end Runs

/-! ## The parts of the exchange -/

theorem WentOn.larg1 {s t : State} {e : List PortEvent} {l : List Answer} (h : WentOn s t e l) :
    t.seq.larg1 = s.seq.larg1 := by
  obtain ⟨-, -, h1, -⟩ := h.latch
  exact h1

theorem xferTxLen_congr {q r : Seq} (h : r.larg0 = q.larg0) : xferTxLen r = xferTxLen q :=
  congrArg (fun w => (w.extractLsb' 0 16).toNat) h

theorem xferCap_congr {q r : Seq} (h : r.larg1 = q.larg1) : xferCap r = xferCap q :=
  congrArg (fun w => (w.extractLsb' 0 16).toNat) h

theorem WentOn.txBytes {s t : State} {e : List PortEvent} {l : List Answer} (h : WentOn s t e l) (off n : Nat) :
    t.txBytes off n = s.txBytes off n := by
  simp only [State.txBytes, h.bufByte]

theorem WentOn.setPhase {s t : State} {e : List PortEvent} {l : List Answer} (h : WentOn s t e l) (ph : Phase) :
    WentOn (setPhase ph s) (setPhase ph t) e l :=
  { h with status := by simp [h.status] }

/-- What the hidden state holds besides the latched operands and the timer pair may change along with an answer. -/
theorem wentOn_advanced {s : State} {q : Seq} {left : List Answer} (ev : PortEvent) (henv : s.envIn.tail = left)
    (hq : SameLatch s.seq q) (hp : q.p = s.seq.p) (hd : q.d = s.seq.d) :
    WentOn s (advanced ev q s.status.phase s) [ev] left :=
  ⟨rfl, rfl, rfl, rfl, rfl, rfl, rfl, rfl, rfl, rfl, rfl, rfl, rfl, henv, hq, hp, hd⟩

/-- The end of a poll iteration: polls counts it, and SEQ yields. -/
theorem wentOn_yield {s : State} {left : List Answer} (us : Nat) (henv : s.envIn = left) :
    WentOn s (goto .pollCommand (waited (.yield us) { s with seq := { s.seq with polls := s.seq.polls + 1 } }))
      [.yield us] left := by
  constructor <;> simp [SameLatch, henv]

section Exchange

variable {slot x : Byte} {s : State} {rest : List Answer}

/-- A frame of one chunk at the port, newest first: the chunk, and the TRANSCEIVE command. -/
def oneChunkEvents (slot : Byte) (rm : RegMap) (bytes : List Byte) : List PortEvent :=
  [.regWrite slot rm.command rm.cmdTransceive true, .fifoWrite slot bytes true]

/-- Steps 2 and 3 of an exchange of one chunk, up to the first read of COMMAND: the chunk, the TRANSCEIVE command, and
the loop test that finds all bytes sent (R174, R175). -/
theorem runSteps_oneChunk {b b' : List Byte} (hsp : s.seq.sp = .firstChunk) (hlen : xferTxLen s.seq ≤ 64)
    (henv : s.envIn = .ok b :: .ok b' :: rest) :
    ∃ w, runSteps (.transceive slot x) 3 s = some (pollCommand slot w) ∧
      WentOn (setPhase .await s) w (oneChunkEvents slot s.cfg.regs (s.txBytes 0 (xferTxLen s.seq))) rest := by
  let t1 := afterFirstChunk slot s
  let t2 := afterStart slot t1
  let w := beginAwait { t2 with seq := { t2.seq with txOff := t2.seq.chunk } }
  have henv1 : t1.envIn = .ok b' :: rest := congrArg List.tail henv
  have h1 : transceiveStep slot s = t1 := (transceiveStep_firstChunk hsp).trans (firstChunk_of_ok henv)
  have h2 : transceiveStep slot t1 = t2 := (transceiveStep_startExchange rfl).trans (startExchange_of_ok henv1)
  have hchunk : min 64 (xferTxLen s.seq) = xferTxLen s.seq := Nat.min_eq_right hlen
  have hall : ¬ t2.seq.chunk < xferTxLen s.seq := Nat.not_lt.2 hchunk.ge
  have h3 : transceiveStep slot t2 = pollCommand slot w := (transceiveStep_streamEntry rfl).trans (if_neg hall)
  refine ⟨w, ?_, ?_⟩
  · rw [runSteps_succ (exec_of_step h1), runSteps_succ (exec_of_step h2), runSteps_succ (exec_of_step h3), runSteps]
  · rw [← hchunk]
    exact ⟨rfl, rfl, rfl, rfl, rfl, rfl, rfl, rfl, rfl, rfl, rfl, rfl, rfl, congrArg List.tail henv1,
      ⟨rfl, rfl, rfl, rfl⟩, rfl, rfl⟩

theorem endIteration_of_noLimit (h : s.cfg.pollLimit = none) :
    endIteration s =
      goto .pollCommand (waited (.yield 1000) { s with seq := { s.seq with polls := s.seq.polls + 1 } }) := by
  simp [endIteration, h, pollLimitReached, pollYieldUs]

/-- A poll iteration with no event read `it.1` from COMMAND and `it.2` from PRIMARY_STATUS (R177, R182). -/
def IdlePoll (rm : RegMap) (it : Byte × Byte) : Prop :=
  it.1 ≠ 0 ∧ it.2 &&& rm.statErr = 0 ∧ it.2 &&& rm.statIrq = 0

/-- ENV's answers to such an iteration. -/
def idlePollAnswers (it : Byte × Byte) : List Answer := [.ok [it.1], .ok [it.2]]

/-- Such an iteration at the port, newest first. -/
def idlePollEvents (slot : Byte) (rm : RegMap) (it : Byte × Byte) : List PortEvent :=
  [.yield 1000, .regRead slot rm.primaryStatus (some it.2), .regRead slot rm.command (some it.1)]

/-- An iteration with no event leads from one read of COMMAND to the next. -/
theorem runSteps_idlePoll {it : Byte × Byte} (hlimit : s.cfg.pollLimit = none) (hit : IdlePoll s.cfg.regs it)
    (henv : s.envIn = idlePollAnswers it ++ rest) :
    ∃ u, runSteps (.transceive slot x) 3 (pollCommand slot s) = some (pollCommand slot u) ∧
      WentOn s u (idlePollEvents slot s.cfg.regs it) rest := by
  obtain ⟨hc, herr, hirq⟩ := hit
  let t1 := advanced (.regRead slot s.cfg.regs.command (some it.1)) { s.seq with c := it.1, sp := .pollStatus }
    s.status.phase s
  let t2 := advanced (.regRead slot s.cfg.regs.primaryStatus (some it.2)) { t1.seq with s := it.2, sp := .pollFlags }
    t1.status.phase t1
  let u := goto .pollCommand (waited (.yield 1000) { t2 with seq := { t2.seq with polls := t2.seq.polls + 1 } })
  have henv1 : t1.envIn = .ok [it.2] :: rest := congrArg List.tail henv
  have h0 : pollCommand slot s = t1 := pollCommand_of_ok henv
  have h1 : transceiveStep slot t1 = t2 := (transceiveStep_pollStatus rfl).trans (pollStatus_of_running hc henv1)
  have h2 : transceiveStep slot t2 = u :=
    (transceiveStep_pollFlags rfl).trans ((pollFlags_of_noEvent herr hirq).trans (endIteration_of_noLimit hlimit))
  have h3 : transceiveStep slot u = pollCommand slot u := transceiveStep_pollCommand rfl
  refine ⟨u, ?_, ?_⟩
  · rw [h0, runSteps_succ (exec_of_step h1), runSteps_succ (exec_of_step h2), runSteps_succ (exec_of_step h3), runSteps]
  · have hwent1 : WentOn s t1 _ _ := wentOn_advanced _ rfl ⟨rfl, rfl, rfl, rfl⟩ rfl rfl
    have hwent2 : WentOn t1 t2 _ rest := wentOn_advanced _ (congrArg List.tail henv1) ⟨rfl, rfl, rfl, rfl⟩ rfl rfl
    exact (hwent1.trans hwent2).trans (wentOn_yield 1000 hwent2.envIn)

/-- Any number of iterations with no event, by induction on them. -/
theorem runSteps_idlePolls {polls : List (Byte × Byte)} (hlimit : s.cfg.pollLimit = none)
    (hpolls : ∀ it ∈ polls, IdlePoll s.cfg.regs it) (henv : s.envIn = polls.flatMap idlePollAnswers ++ rest) :
    ∃ u, runSteps (.transceive slot x) (3 * polls.length) (pollCommand slot s) = some (pollCommand slot u) ∧
      WentOn s u (polls.reverse.flatMap (idlePollEvents slot s.cfg.regs)) rest := by
  induction polls generalizing s with
  | nil => exact ⟨s, rfl, WentOn.refl henv⟩
  | cons it polls ih =>
    rw [List.flatMap_cons, List.append_assoc] at henv
    obtain ⟨r, hrun, hwent⟩ := runSteps_idlePoll (slot := slot) (x := x) hlimit (hpolls it List.mem_cons_self) henv
    obtain ⟨u, hruns, hwents⟩ := ih (s := r) (by rw [hwent.cfg, hlimit])
      (fun it hit => by rw [hwent.cfg]; exact hpolls it (List.mem_cons_of_mem _ hit)) hwent.envIn
    refine ⟨u, ?_, ?_⟩
    · rw [List.length_cons, Nat.mul_succ, Nat.add_comm]
      exact runSteps_add hrun hruns
    · rw [hwent.cfg] at hwents
      simpa using hwent.trans hwents

/-- The drain of a state with bytes available, and the end (R183, R185). -/
theorem runToEnd_drainRead {n : Nat} {bytes : List Byte} (hsp : s.seq.sp = .drainRead) (hb : s.status.busy = true)
    (hflush : s.ctrl.surplusFlush = false) (havail : s.seq.avail ≠ 0)
    (hn : n = min s.seq.avail.toNat (xferCap s.seq)) (hlen : bytes.length = n) (henv : s.envIn = .ok bytes :: rest) :
    ∃ t, runToEnd (.transceive slot x) 2 s = some t ∧
      TransceiveSucceeded s t n (truncated s.seq) [.fifoRead slot n (some bytes)] ∧ HoldsAnswer t bytes ∧
      t.envIn = rest := by
  let t1 := advanced (.fifoRead slot n (some bytes)) { s.seq with n := n, bytes := bytes, sp := .drainFlush }
    s.status.phase s
  have hread : transceiveStep slot s = t1 := by
    subst hn
    exact (transceiveStep_drainRead hsp).trans (drainRead_of_ok havail hlen henv)
  have hstored : transceiveStep slot t1 = succeed (storeRx bytes t1) :=
    (transceiveStep_drainFlush rfl).trans (drainFlush_of_noFlush (.inr hflush))
  have hb1 : t1.status.busy = true := hb
  have hhost : KeepsHostSide s (storeRx bytes t1) :=
    keepsHostSide_trans (advanced_keepsHostSide _ _ _ s) (storeRx_keepsHostSide bytes t1)
  refine ⟨succeed (storeRx bytes t1), ?_, succeed_transceiveSucceeded hhost rfl rfl rfl rfl,
    storeRx_holdsAnswer bytes t1, congrArg List.tail henv⟩
  rw [runToEnd_succ (exec_of_step hread), runOn, if_pos hb1, runToEnd_succ (exec_of_step hstored)]
  rfl

/-- A success seen from an earlier state, which only the port, PHASE and the hidden state have left. -/
theorem transceiveSucceeded_of_earlier {u t : State} {n : Nat} {cut : Bool} {events before : List PortEvent}
    (h : TransceiveSucceeded u t n cut events) (hk : KeepsHostSide s u)
    (hst : u.status = { s.status with phase := u.status.phase }) (htr : u.trace = before ++ s.trace) :
    TransceiveSucceeded s t n cut (events ++ before) := by
  obtain ⟨hres, hstatus, htrace, hhost⟩ := h
  refine ⟨hres, ?_, ?_, keepsHostSide_trans hk hhost⟩
  · rw [hstatus, hst]
  · rw [htrace, htr, List.append_assoc]

/-- The exchange at the port from the read of COMMAND that finds completion to the FifoRead, newest first. -/
def completionEvents (slot : Byte) (rm : RegMap) (avail : Byte) (n : Nat) (bytes : List Byte) : List PortEvent :=
  [.fifoRead slot n (some bytes), .regRead slot rm.fifoLength (some avail), .regWrite slot rm.interruptRq rm.irqRx true,
   .regRead slot rm.command (some 0)]

/-- The last iteration, whose COMMAND reads 0, the drain and the end (R178, R183, R185). -/
theorem runToEnd_completed {b bytes : List Byte} {avail : Byte} {n : Nat} (hb : s.status.busy = true)
    (hflush : s.ctrl.surplusFlush = false) (havail : avail ≠ 0) (hn : n = min avail.toNat (xferCap s.seq))
    (hlen : bytes.length = n) (henv : s.envIn = .ok [0] :: .ok b :: .ok [avail] :: .ok bytes :: rest) :
    ∃ t, runToEnd (.transceive slot x) 4 (pollCommand slot s) = some t ∧
      TransceiveSucceeded s t n (decide (xferCap s.seq < avail.toNat))
        (completionEvents slot s.cfg.regs avail n bytes) ∧
      HoldsAnswer t bytes ∧ t.envIn = rest := by
  let t1 := advanced (.regRead slot s.cfg.regs.command (some 0)) { s.seq with c := 0, sp := .pollStatus }
    s.status.phase s
  let t2 := advanced (.regWrite slot s.cfg.regs.interruptRq s.cfg.regs.irqRx true)
    { t1.seq with sp := .drainLength } t1.status.phase t1
  let t3 := advanced (.regRead slot s.cfg.regs.fifoLength (some avail))
    { t2.seq with avail := avail, sp := .drainRead } .drain t2
  have henv1 : t1.envIn = .ok b :: .ok [avail] :: .ok bytes :: rest := congrArg List.tail henv
  have henv2 : t2.envIn = .ok [avail] :: .ok bytes :: rest := congrArg List.tail henv1
  have h0 : pollCommand slot s = t1 := pollCommand_of_ok henv
  have h1 : transceiveStep slot t1 = t2 := (transceiveStep_pollStatus rfl).trans (pollStatus_of_completed rfl henv1)
  have h2 : transceiveStep slot t2 = t3 := (transceiveStep_drainLength rfl).trans (drainLength_of_ok henv2)
  have hrun : runSteps (.transceive slot x) 2 t1 = some t3 := by
    rw [runSteps_succ (exec_of_step h1), runSteps_succ (exec_of_step h2), runSteps]
  have hcap : xferCap t3.seq = xferCap s.seq := xferCap_congr rfl
  have havail3 : t3.seq.avail = avail := rfl
  have hcut : truncated t3.seq = decide (xferCap s.seq < avail.toNat) := by rw [truncated, hcap, havail3]
  obtain ⟨t, hend, hsucc, hanswer, hleft⟩ := runToEnd_drainRead (slot := slot) (x := x) (s := t3) rfl hb hflush
    havail (by rw [hcap, havail3]; exact hn) hlen (congrArg List.tail henv2)
  rw [hcut] at hsucc
  have hhost : KeepsHostSide s t3 := keepsHostSide_trans (advanced_keepsHostSide _ _ _ s)
    (keepsHostSide_trans (advanced_keepsHostSide _ _ _ t1) (advanced_keepsHostSide _ _ _ t2))
  refine ⟨t, ?_, ?_, hanswer, hleft⟩
  · rw [h0, runToEnd_of_runSteps (m := 2) hrun hb, hend]
  · exact transceiveSucceeded_of_earlier (before := [_, _, _]) hsucc hhost rfl rfl

/-- From the first step of an exchange of one chunk to the read of COMMAND after its iterations with no event. -/
theorem runSteps_untilCompletion {p d : Byte} {polls : List (Byte × Byte)} (hsp : s.seq.sp = .op 0)
    (hlen : xferTxLen s.seq ≤ 64) (hmax : xferTxLen s.seq ≤ s.cfg.txMax)
    (hpair : deriveTimer (10 * timeoutUsec s.seq) = some (p, d)) (hlimit : s.cfg.pollLimit = none)
    (hpolls : ∀ it ∈ polls, IdlePoll s.cfg.regs it)
    (henv : s.envIn = List.replicate 9 (.ok []) ++ (polls.flatMap idlePollAnswers ++ rest)) :
    ∃ u, runSteps (.transceive slot x) (3 * polls.length + 10) s = some (pollCommand slot u) ∧
      WentOn (setPhase .await (holdPair p d s)) u
        (polls.reverse.flatMap (idlePollEvents slot s.cfg.regs) ++
          (oneChunkEvents slot s.cfg.regs (s.txBytes 0 (xferTxLen s.seq)) ++ armEvents slot s.cfg.regs p d 7)) rest := by
  obtain ⟨t, hrunt, harmed⟩ := runSteps_armed (slot := slot) (x := x) (n := 7)
    (rest := .ok [] :: .ok [] :: (polls.flatMap idlePollAnswers ++ rest)) hsp hmax hpair henv (by decide) (Nat.le_refl 7)
  have hwentt := harmed.wentOn
  have hlent : xferTxLen t.seq = xferTxLen s.seq := xferTxLen_congr hwentt.larg0
  obtain ⟨w, hrunw, hwentw⟩ := runSteps_oneChunk (slot := slot) (x := x) harmed.sp (hlent.trans_le hlen) hwentt.envIn
  rw [hwentt.cfg, hwentt.txBytes, hlent] at hwentw
  have hwent := (hwentt.setPhase .await).trans hwentw
  have hcfg : w.cfg = s.cfg := hwent.cfg
  obtain ⟨u, hrunu, hwentu⟩ := runSteps_idlePolls (slot := slot) (x := x) (by rwa [hcfg]) (by rwa [hcfg]) hwent.envIn
  rw [hcfg] at hwentu
  refine ⟨u, ?_, hwent.trans hwentu⟩
  rw [Nat.add_comm]
  exact runSteps_add (runSteps_add hrunt hrunw) hrunu

end Exchange

/-- Settles O59: arming, the one chunk and the iterations with no event, then the completion. -/
theorem transceiveExchangeSucceedsAfterAnyNumberOfPolls :
    Obligations.TransceiveExchangeSucceedsAfterAnyNumberOfPolls := by
  rintro slot x s len n p d avail polls bytes rest ⟨hb, hsp⟩ hlimit hflush rfl h64 hmax hpair hpolls havail hn hbytes
    henv
  rw [List.append_assoc, List.append_assoc] at henv
  obtain ⟨u, hrun, hwent⟩ := runSteps_untilCompletion (slot := slot) (x := x) hsp h64 hmax hpair hlimit hpolls henv
  have hbu : u.status.busy = true := by rw [hwent.status]; exact hb
  have hbusy : (pollCommand slot u).status.busy = true := by rw [pollCommand_of_ok hwent.envIn]; exact hbu
  have hcap : xferCap u.seq = xferCap s.seq := xferCap_congr hwent.larg1
  obtain ⟨t, hend, hsucc, hanswer, hleft⟩ := runToEnd_completed (slot := slot) (x := x) hbu
    (by rw [hwent.ctrl]; exact hflush) havail (by rw [hcap]; exact hn) hbytes hwent.envIn
  obtain ⟨hres, hstatus, htrace, hhost⟩ :=
    transceiveSucceeded_of_earlier (s := s) hsucc hwent.keepsHostSide (by rw [hwent.status]; rfl) hwent.trace
  obtain ⟨t1, hexec, hb1⟩ := exec_busy_of_runSteps hrun hbusy
  refine ⟨t1, t, hexec, hb1, ?_, hres, ?_, hanswer, hhost, hleft, ?_⟩
  · rw [show 14 + 3 * polls.length = 3 * polls.length + 10 + 4 by omega, runToEnd_of_runSteps hrun hbusy, hend]
  · rw [hstatus, hcap]
    rfl
  · rw [htrace, hwent.cfg]
    simp only [List.append_assoc, State.txBytes_eq, Nat.zero_add]
    rfl

end Sys2Proof.Machine
end

section
/-! The diagnostic reads, GET_ERROR and GET_COLL_POS (43_link_config.md R228 to R230): a listing of one read whose end
gives the byte read as RESULT. -/

namespace Sys2Proof.Machine

open Sys2Proof.Safety

theorem getError_runsListing (slot : Byte) (s : State) :
    RunsListing (.getError slot) slot [.read s.cfg.regs.errorFlag 0] completeWithV s := by
  refine .of_exec fun t _ _ ht => ?_
  rw [← ht.cfg]
  rfl

theorem getCollPos_runsListing (slot : Byte) (s : State) :
    RunsListing (.getCollPos slot) slot [.read s.cfg.regs.collPos 0] completeWithV s := by
  refine .of_exec fun t _ _ ht => ?_
  rw [← ht.cfg]
  rfl

section DiagnosticRead

variable {c : Instr} {slot a : Byte} {s : State} {rest : List Answer}

/-- An answered read: the first step goes on with the byte in v, and the second ends the command with it. -/
theorem RunsListing.rawByte_of_ok {v : Byte} (hl : RunsListing c slot [.read a 0] completeWithV s)
    (hs : AtFirstStep s) (henv : s.envIn = .ok [v] :: rest) :
    ∃ t1 t, exec c s = .next t1 ∧ t1.status.busy = true ∧ exec c t1 = .next t ∧
      EndedOk s t (v.setWidth 32) [.regRead slot a (some v)] rest := by
  obtain ⟨hb, hsp⟩ := hs
  have hfirst : exec c s = .next (holdV (.op 1) v (answered (.regRead slot a (some v)) s)) :=
    (hl s [] _ 0 (.refl rfl) hsp).trans (congrArg _ (regRead_of_ok henv))
  have hon := wentOn_holdV (.regRead slot a (some v)) (.op 1) v s
  rw [henv] at hon
  exact ⟨_, _, hfirst, hb, hl _ _ _ 1 hon rfl, hon.endedOk _⟩

/-- A failed read ends the command in its own step. -/
theorem RunsListing.transport_of_fail {fin : State → State} {r : Word} {more : List SeqOp}
    (hl : RunsListing c slot (.read a r :: more) fin s) (hsp : s.seq.sp = .op 0) (henv : s.envIn = .fail :: rest) :
    ∃ t, exec c s = .next t ∧ EndedInError s t .transport r [.regRead slot a none] rest := by
  have hend := regRead_fail_endedInError (slot := slot) (a := a) (r := r) (onOk := holdV (.op 1))
    (State.nextAnswer_cons henv)
  rw [henv] at hend
  exact ⟨_, hl s [] _ 0 (.refl rfl) hsp, hend⟩

end DiagnosticRead

/-- Settles O41: either command is a listing of one read, of the register its rule names. -/
theorem diagnosticReadsReturnTheRawByte : Obligations.DiagnosticReadsReturnTheRawByte := by
  intro slot s i a hs hi
  have hl : RunsListing i slot [.read a 0] completeWithV s := by
    obtain ⟨rfl, rfl⟩ | ⟨rfl, rfl⟩ := hi
    · exact getError_runsListing slot s
    · exact getCollPos_runsListing slot s
  exact ⟨fun _ _ henv => hl.rawByte_of_ok hs henv, fun _ henv => hl.transport_of_fail hs.2 henv⟩

end Sys2Proof.Machine
end

section
/-! The constant queries, GET_SPEEDS, GET_CARRIER and GET_MAX_FRAME (45_constants.md R280 to R282): one step, which is
complete() with the constant. -/

namespace Sys2Proof.Machine

open Sys2Proof.Safety

theorem exec_getSpeeds (slot : Byte) (s : State) : exec (.getSpeeds slot) s = .next (complete 0x0000000F s) := rfl

/-- The carrier frequency of R281, as the literal of its 32 bits. -/
theorem exec_getCarrier (slot : Byte) (s : State) : exec (.getCarrier slot) s = .next (complete 0x00CEE8C0 s) := rfl

/-- The FIFO's size of R282, as the literal of its 32 bits. -/
theorem exec_getMaxFrame (slot : Byte) (s : State) : exec (.getMaxFrame slot) s = .next (complete 0x00000040 s) := rfl

/-- A command whose one step is complete() (R311) ends without error, and no transaction is counted. -/
theorem ends_of_exec_complete {c : Instr} {r : Word} {s : State} (h : exec c s = .next (complete r s)) :
    ∃ t, exec c s = .next t ∧ EndedOk s t r [] s.envIn ∧ t.txns = s.txns :=
  ⟨_, h, complete_endedOk r s, complete_txns r s⟩

/-- Settles O44: each query's one step is complete() with its constant. -/
theorem constantQueriesReturnTheirConstants : Obligations.ConstantQueriesReturnTheirConstants := by
  intro slot s
  refine ⟨?speeds, ?carrier, ?maxFrame⟩
  case speeds => exact ends_of_exec_complete (exec_getSpeeds slot s)
  case carrier => exact ends_of_exec_complete (exec_getCarrier slot s)
  case maxFrame => exact ends_of_exec_complete (exec_getMaxFrame slot s)

end Sys2Proof.Machine
end

section
/-! The interrupt output (60_exceptions.md R320): IRQ_OUT by its two bits, where a command's end raises it and where
HOST clears it. -/

namespace Sys2Proof.Machine

theorem State.irqOut_of_done {s : State} (h : s.status.done = true) : s.irqOut = s.ctrl.irqEn := by
  rw [State.irqOut, h, Bool.and_true]

theorem State.irqOut_of_not_done {s : State} (h : s.status.done = false) : s.irqOut = false := by
  rw [State.irqOut, h, Bool.and_false]

/-- A command's end sets DONE, and no step of SEQ writes CTRL. -/
theorem irqOut_of_commandEnd {i : Instr} {s t : State} (h : exec i s = .next t) (hbs : s.status.busy = true)
    (hbt : t.status.busy = false) : t.irqOut = s.ctrl.irqEn := by
  obtain ⟨hdone, _⟩ := commandEndSetsDoneAndShowsAnyError i s t h hbs hbt
  obtain ⟨_, _, hctrl, _⟩ := commandStepsKeepTheHostSide i s t h
  rw [State.irqOut_of_done hdone, hctrl]

theorem irqOut_of_doneWritten {s : State} {v : Word} {rest : List HostTurn}
    (hin : s.hostIn = .write 0x004 .four v :: rest) (hv : v.getLsbD 1 = true) :
    ∃ t, step s = .next t ∧ t.irqOut = false := by
  obtain ⟨hwrite, _⟩ := statusWriteClearsOnlyWhatItNames
  exact ⟨_, hwrite s v rest hin, State.irqOut_of_not_done (if_pos hv)⟩

theorem irqOut_of_acceptance {s : State} {w : Word} {rest : List HostTurn}
    (hin : s.hostIn = .write 0x000 .four w :: rest) (hb : s.status.busy = false) :
    ∃ t, step s = .next t ∧ t.irqOut = false := by
  obtain ⟨_, haccepted⟩ := cmdWriteIsAcceptedOrSetsOverrun s w rest hin
  obtain ⟨q, hstep, _⟩ := haccepted hb
  exact ⟨_, hstep, State.irqOut_of_not_done rfl⟩

/-- Settles O14: IRQ_OUT follows DONE, which a command's end sets and HOST's two writes clear. -/
theorem irqOutRisesAtTheEndAndIsCleared : Obligations.IrqOutRisesAtTheEndAndIsCleared := by
  refine ⟨fun s => ?equation, ?reset, fun i s t h hbs hbt => ?commandEnd, fun s v rest hin hv => ?doneWritten,
    fun s w rest hin hb => ?acceptance⟩
  case equation => rfl
  case reset => rfl
  case commandEnd => exact irqOut_of_commandEnd h hbs hbt
  case doneWritten => exact irqOut_of_doneWritten hin hv
  case acceptance => exact irqOut_of_acceptance hin hb

end Sys2Proof.Machine
end
